-- ==== Sys2Proof/Word.lean ====
section
/-! DEFINITION. The words of the block: bytes, byte sequences and the fixed widths of its fields. -/

namespace Sys2Proof

/-- One byte; bit 7 is its most significant bit (00_scope.md R10). -/
abbrev Byte := BitVec 8

/-- A byte sequence, in arrival order; the spec's `[]`, `⧺` and `x[a:]` are `[]`, `++` and
`List.drop a` (00_scope.md R10). -/
abbrev Bytes := List Byte

/-- A 16-bit unsigned word, the sequence number's type (30_encoding.md R40). -/
abbrev U16 := BitVec 16

/-- A 32-bit unsigned word (30_encoding.md R40, 00_scope.md R9). -/
abbrev U32 := BitVec 32

end Sys2Proof
end

