-- ==== Sys2Proof/Config.lean ====
section
/-! DEFINITION. The constants the spec fixes (00_scope.md R6, R7) and the parameters it leaves open
(00_scope.md R8). An open parameter is a constant with no body, so that no proof can see its value;
only the constraint R8 states on it is visible. -/

namespace Sys2Proof.Config

/-! ## Constants (00_scope.md R6) -/

/-- `HDR_LEN`: bytes of RTP fixed header. -/
def hdrLen : Nat := 12

/-- `RTP_VERSION`: the only accepted version. -/
def rtpVersion : BitVec 2 := 2

/-- `PT_H264`: the only accepted payload type. -/
def ptH264 : BitVec 7 := 96

/-- `START_CODE`: the 3-byte Annex-B prefix. -/
def startCode : Bytes := [0x00, 0x00, 0x01]

/-- `NAL_NONIDR`: NAL type of a non-IDR slice. -/
def nalNonidr : BitVec 5 := 1

/-- `NAL_IDR`: NAL type of an IDR slice. -/
def nalIdr : BitVec 5 := 5

/-- `NAL_TYPE_MASK`. -/
def nalTypeMask : Byte := 0x1F

/-- `NAL_HDR_KEEP_MASK`. -/
def nalHdrKeepMask : Byte := 0xE0

/-! ## Constants the spec supplies from general knowledge (00_scope.md R7)

UNVERIFIED (log 10): the spec gives them and says that its source does not; unsafe, were the
source's intended values others. -/

/-- `NAL_SPS`. -/
def nalSps : BitVec 5 := 7

/-- `NAL_PPS`. -/
def nalPps : BitVec 5 := 8

/-- `NAL_FUA`. -/
def nalFua : BitVec 5 := 28

/-! ## Parameters (00_scope.md R8) -/

/-- The parameters of 00_scope.md R8 as plain data: the model takes them as part of its state, where
no step writes them. DESIGN CHOICE (log 1), safe: a statement about every state is a statement about
every value of them. -/
structure Params where
  /-- `AU_MAX_BYTES`, at least 4. -/
  auMaxBytes : Nat
  /-- `SPS_MAX_BYTES`, at least 1. -/
  spsMaxBytes : Nat
  /-- `PPS_MAX_BYTES`, at least 1. -/
  ppsMaxBytes : Nat
  /-- `DGRAM_MAX_BYTES`, at least 12. -/
  dgramMaxBytes : Nat
  /-- `FOURCC_H264`. -/
  fourcc : U32
  /-- `DIM_BITS`, at least 1. -/
  dimBits : Nat
  /-- Points at which the environment has pinned the oracle `parseSps`; at every other byte sequence
  the oracle is `Config.parseSps`. DESIGN CHOICE (log 2), safe: with an empty list the oracle is
  wholly uninterpreted. -/
  spsAnswers : List (Bytes × (Nat × Nat))
  deriving DecidableEq, Repr

/-- The constraints of 00_scope.md R8 on the parameters. -/
abbrev Params.Valid (p : Params) : Prop :=
  4 ≤ p.auMaxBytes ∧ 1 ≤ p.spsMaxBytes ∧ 1 ≤ p.ppsMaxBytes ∧ 12 ≤ p.dgramMaxBytes ∧ 1 ≤ p.dimBits

/-- By how much `AU_MAX_BYTES` exceeds its least value 4; OPEN (92_eei_decisions.md D18). -/
opaque auMaxSlack : Nat

/-- By how much `SPS_MAX_BYTES` exceeds its least value 1; OPEN (92_eei_decisions.md D19). -/
opaque spsMaxSlack : Nat

/-- By how much `PPS_MAX_BYTES` exceeds its least value 1; OPEN (92_eei_decisions.md D19). -/
opaque ppsMaxSlack : Nat

/-- By how much `DGRAM_MAX_BYTES` exceeds its least value 12; OPEN (92_eei_decisions.md D20). -/
opaque dgramMaxSlack : Nat

/-- `FOURCC_H264`; OPEN (92_eei_decisions.md D21). -/
opaque fourccH264 : U32

/-- By how much `DIM_BITS` exceeds its least value 1; OPEN (92_eei_decisions.md D22). -/
opaque dimBitsSlack : Nat

/-- The external SPS parser `parseSps` (42_parameter_sets.md R80): total, a function of the bytes
offered, nothing else assumed of it. OPEN (92_eei_decisions.md D2). -/
opaque parseSps : Bytes → Nat × Nat

/-- The block's parameters, uninterpreted but for the constraints of 00_scope.md R8. -/
def params : Params where
  auMaxBytes := auMaxSlack + 4
  spsMaxBytes := spsMaxSlack + 1
  ppsMaxBytes := ppsMaxSlack + 1
  dgramMaxBytes := dgramMaxSlack + 12
  fourcc := fourccH264
  dimBits := dimBitsSlack + 1
  spsAnswers := []

end Sys2Proof.Config
end

