-- ==== Sys2Proof/Machine/Bits.lean ====
section
/-! DEFINITION. Bit fields of a byte, bytes of a datagram, and big-endian words (20_memory.md R27,
30_encoding.md R41 to R44). -/

namespace Sys2Proof.Machine

/-- `b[4:0]`: the NAL type of a NAL header byte or an FU header (30_encoding.md R42, R44). -/
def typeBits (b : Byte) : BitVec 5 := b.extractLsb' 0 5

/-- `b[7:5]`: the bits of a NAL header byte above its type (30_encoding.md R42, R43). -/
def keepBits (b : Byte) : BitVec 3 := b.extractLsb' 5 3

/-- Bit `n` of a byte, as a one-bit field. -/
def bitOf (b : Byte) (n : Nat) : BitVec 1 := b.extractLsb' n 1

/-- Byte `i` of a datagram, 0 where it is absent (30_encoding.md R47). -/
def byteAt (d : Bytes) (i : Nat) : Byte := d.getD i 0

/-- Two bytes as a word, the first more significant (20_memory.md R27). -/
def be16 (hi lo : Byte) : U16 := hi ++ lo

/-- Four bytes as a word, the first most significant (20_memory.md R27). -/
def be32 (a b c d : Byte) : U32 := a ++ b ++ c ++ d

/-- The bytes of a 16-bit word in network order (20_memory.md R27). -/
def bytesOf16 (w : U16) : Bytes := [w.extractLsb' 8 8, w.extractLsb' 0 8]

/-- The bytes of a 32-bit word in network order (20_memory.md R27). -/
def bytesOf32 (w : U32) : Bytes :=
  [w.extractLsb' 24 8, w.extractLsb' 16 8, w.extractLsb' 8 8, w.extractLsb' 0 8]

/-- Whether a byte sequence has at most `n` bytes; the same as `d.length ≤ n`, by recursion on the
sequence alone, so that it can be evaluated where `n` is only partly known. -/
def fits : Bytes → Nat → Bool
  | [], _ => true
  | _ :: _, 0 => false
  | _ :: d, n + 1 => fits d n

end Sys2Proof.Machine
end

