-- ==== Sys2Proof/Syntax.lean ====
section
/-! DEFINITION. The instructions of the block: one constructor for each row of
spec/opcode_table.json (30_encoding.md R48). A datagram is decoded once into one of them
(30_encoding.md, introduction); the operands are every bit of the datagram that the row's mask does
not fix, so that no bit of a datagram is dropped. -/

namespace Sys2Proof

/-- The fields of the RTP fixed header that no row of the opcode table tests (30_encoding.md R40):
`P`, `X`, `CC`, `sequence`, `timestamp`, `SSRC`. `V`, `M` and `PT` stand beside them where a row
leaves them open. -/
structure RtpFields where
  /-- `P`, padding. -/
  p : BitVec 1
  /-- `X`, extension. -/
  x : BitVec 1
  /-- `CC`, CSRC count. -/
  cc : BitVec 4
  /-- The sequence number. -/
  seq : U16
  /-- The timestamp. -/
  ts : U32
  /-- The synchronisation source. -/
  ssrc : U32
  deriving DecidableEq, Repr

/-- The operations, named as the opcode table names its rows (30_encoding.md R48). -/
inductive Op where
  | rejShort | nalNonidr | nalIdr | nalSps | nalPps | fuaStart | fuaMid | fuaEnd | nalUnknown
  | rejPt | rejVersion
  deriving DecidableEq, Repr

/-- A decoded datagram. In the order of the opcode table's priorities (30_encoding.md R48):
`m` is the marker bit, `f` the other header fields, `nri` and `ind` bits 7:5 of the first payload
byte, `e`, `r` and `typ` the FU header's end bit, reserved bit and type (R44), `body` and `frag` the
bytes after the NAL header and after the FU header, `p` a whole payload. -/
inductive Instr where
  /-- `REJ_SHORT` (40_rtp_header.md R57): the whole datagram, shorter than the header. -/
  | rejShort (d : Bytes)
  /-- `NAL_NONIDR` (43_reassembler.md R93). -/
  | nalNonidr (m : BitVec 1) (f : RtpFields) (nri : BitVec 3) (body : Bytes)
  /-- `NAL_IDR` (43_reassembler.md R92). -/
  | nalIdr (m : BitVec 1) (f : RtpFields) (nri : BitVec 3) (body : Bytes)
  /-- `NAL_SPS` (42_parameter_sets.md R79). -/
  | nalSps (m : BitVec 1) (f : RtpFields) (nri : BitVec 3) (body : Bytes)
  /-- `NAL_PPS` (42_parameter_sets.md R84). -/
  | nalPps (m : BitVec 1) (f : RtpFields) (nri : BitVec 3) (body : Bytes)
  /-- `FUA_START` (43_reassembler.md R95); `S = 1`, any `M`. -/
  | fuaStart (m : BitVec 1) (f : RtpFields) (ind : BitVec 3) (e r : BitVec 1) (typ : BitVec 5)
      (frag : Bytes)
  /-- `FUA_MID` (43_reassembler.md R96); `S = 0`, `M = 0`. -/
  | fuaMid (f : RtpFields) (ind : BitVec 3) (e r : BitVec 1) (typ : BitVec 5) (frag : Bytes)
  /-- `FUA_END` (43_reassembler.md R97); `S = 0`, `M = 1`. -/
  | fuaEnd (f : RtpFields) (ind : BitVec 3) (e r : BitVec 1) (typ : BitVec 5) (frag : Bytes)
  /-- `NAL_UNKNOWN` (43_reassembler.md R104): any other payload, the empty one included. -/
  | nalUnknown (m : BitVec 1) (f : RtpFields) (p : Bytes)
  /-- `REJ_PT` (40_rtp_header.md R59): version 2, payload type not 96. -/
  | rejPt (m : BitVec 1) (pt : BitVec 7) (f : RtpFields) (p : Bytes)
  /-- `REJ_VERSION` (40_rtp_header.md R58): version not 2. -/
  | rejVersion (v : BitVec 2) (m : BitVec 1) (pt : BitVec 7) (f : RtpFields) (p : Bytes)
  deriving DecidableEq, Repr

/-- The row an instruction belongs to. -/
def Instr.op : Instr → Op
  | .rejShort _ => .rejShort
  | .nalNonidr _ _ _ _ => .nalNonidr
  | .nalIdr _ _ _ _ => .nalIdr
  | .nalSps _ _ _ _ => .nalSps
  | .nalPps _ _ _ _ => .nalPps
  | .fuaStart _ _ _ _ _ _ _ => .fuaStart
  | .fuaMid _ _ _ _ _ _ => .fuaMid
  | .fuaEnd _ _ _ _ _ _ => .fuaEnd
  | .nalUnknown _ _ _ => .nalUnknown
  | .rejPt _ _ _ _ => .rejPt
  | .rejVersion _ _ _ _ _ => .rejVersion

/-- Header status (60_exceptions.md R117). -/
inductive HdrStatus where
  | accepted | rejShort | rejVersion | rejPt
  deriving DecidableEq, Repr

/-- Payload kind (60_exceptions.md R118); `none` where the header is rejected. -/
inductive Kind where
  | none | sps | pps | idr | nonidr | fuaStart | fuaCont | unknown
  deriving DecidableEq, Repr

/-- The header status an operation reports (60_exceptions.md R117). -/
def Op.hdrStatus : Op → HdrStatus
  | .rejShort => .rejShort
  | .rejVersion => .rejVersion
  | .rejPt => .rejPt
  | .nalNonidr | .nalIdr | .nalSps | .nalPps | .fuaStart | .fuaMid | .fuaEnd | .nalUnknown =>
    .accepted

/-- The payload kind an operation reports (60_exceptions.md R118). -/
def Op.kind : Op → Kind
  | .rejShort | .rejVersion | .rejPt => .none
  | .nalSps => .sps
  | .nalPps => .pps
  | .nalIdr => .idr
  | .nalNonidr => .nonidr
  | .fuaStart => .fuaStart
  | .fuaMid | .fuaEnd => .fuaCont
  | .nalUnknown => .unknown

end Sys2Proof
end

