-- ==== Sys2Proof/Machine/Operands.lean ====
section
/-! DEFINITION. Operand assembly: the payload an operation works on, put together from the decoded
operands (30_encoding.md R42 to R45), and the reconstructed NAL header. -/

namespace Sys2Proof.Machine

/-- A NAL header byte from its bits 7:5 and its type (30_encoding.md R42). -/
def nalHeader (nri : BitVec 3) (t : BitVec 5) : Byte := nri ++ t

/-- The payload of a single NAL unit, header byte included (30_encoding.md R39, F-NAL). -/
def nalPayload (nri : BitVec 3) (t : BitVec 5) (body : Bytes) : Bytes := nalHeader nri t :: body

/-- The FU indicator: a NAL header byte of type 28 (30_encoding.md R43). -/
def fuIndicator (ind : BitVec 3) : Byte := nalHeader ind Config.nalFua

/-- The FU header: start bit, end bit, reserved bit, type (30_encoding.md R44). -/
def fuHeader (s e r : BitVec 1) (typ : BitVec 5) : Byte := s ++ e ++ r ++ typ

/-- The payload of an FU-A fragment (30_encoding.md R39, F-FUA). -/
def fuaPayload (ind : BitVec 3) (s e r : BitVec 1) (typ : BitVec 5) (frag : Bytes) : Bytes :=
  fuIndicator ind :: fuHeader s e r typ :: frag

/-- The reconstructed NAL header of a start fragment,
`(p[0] & 0xE0) | (p[1] & 0x1F)` (30_encoding.md R45). -/
def recon (h0 h1 : Byte) : Byte :=
  (h0 &&& Config.nalHdrKeepMask) ||| (h1 &&& Config.nalTypeMask)

/-- `p[2:]`: the fragment bytes of an FU-A payload (30_encoding.md R39). -/
def fragment (p : Bytes) : Bytes := p.drop 2

end Sys2Proof.Machine
end

