-- ==== Sys2Proof/WellFormed.lean ====
section
/-! DEFINITION. Which terms of `Instr` stand for a datagram of their row (30_encoding.md R48): the
operands that the row's mask leaves open but an earlier row or the row's length excludes. The
datagram's length bound `DGRAM_MAX_BYTES` is the interface's (20_memory.md R28), checked by `step`. -/

namespace Sys2Proof

/-- Whether a payload of an accepted datagram is of no other kind than `UNKNOWN` (30_encoding.md R46,
R49): empty, of a type other than 1, 5, 7, 8 and 28, or an FU-A payload of one byte. -/
def unknownPayload : Bytes → Bool
  | [] => true
  | b :: rest =>
    let t := Machine.typeBits b
    t != Config.nalSps && t != Config.nalPps && t != Config.nalIdr && t != Config.nalNonidr &&
      (t != Config.nalFua || rest.isEmpty)

/-- Whether an instruction's operands are within its row of the opcode table (30_encoding.md R48). -/
def Instr.wellFormed : Instr → Bool
  | .rejShort d => d.length ≤ 11
  | .nalNonidr _ _ _ _ => true
  | .nalIdr _ _ _ _ => true
  | .nalSps _ _ _ _ => true
  | .nalPps _ _ _ _ => true
  | .fuaStart _ _ _ _ _ _ _ => true
  | .fuaMid _ _ _ _ _ _ => true
  | .fuaEnd _ _ _ _ _ _ => true
  | .nalUnknown _ _ p => unknownPayload p
  | .rejPt _ pt _ _ => pt != Config.ptH264
  | .rejVersion v _ _ _ _ => v != Config.rtpVersion

end Sys2Proof
end

