-- ==== Sys2Proof/Decode.lean ====
section
/-! DEFINITION. From the bytes of a datagram to an instruction and back (30_encoding.md). The decoder
follows the decode word and the opcode table of R47 and R48; the header checks and the classifier of
40_rtp_header.md R60 and 30_encoding.md R46 stand beside it, as the prose form the spec gives of the
same map. -/

namespace Sys2Proof

open Machine

/-! ## The decode word and the opcode table -/

/-- The decode word `DW`, from up to four bytes of the datagram, an absent byte read as 0
(30_encoding.md R47). -/
def decodeWord (d : Bytes) : BitVec 32 :=
  be32 (byteAt d 0) (byteAt d 1) (byteAt d 12) (byteAt d 13)

/-- A row of the opcode table; `maxLen` is `none` where the row gives no upper length. -/
structure OpRow where
  /-- The operation the row selects. -/
  op : Op
  /-- The bits of `DW` that the row tests. -/
  mask : BitVec 32
  /-- What the tested bits must be. -/
  value : BitVec 32
  /-- The least length of the datagram. -/
  minLen : Nat
  /-- The greatest length of the datagram, where the row gives one. -/
  maxLen : Option Nat
  deriving DecidableEq, Repr

/-- The opcode table in priority order (30_encoding.md R48). -/
def opcodeTable : List OpRow :=
  [ ⟨.rejShort,   0x00000000, 0x00000000,  0, some 11⟩,
    ⟨.nalNonidr,  0xC07F1F00, 0x80600100, 13, none⟩,
    ⟨.nalIdr,     0xC07F1F00, 0x80600500, 13, none⟩,
    ⟨.nalSps,     0xC07F1F00, 0x80600700, 13, none⟩,
    ⟨.nalPps,     0xC07F1F00, 0x80600800, 13, none⟩,
    ⟨.fuaStart,   0xC07F1F80, 0x80601C80, 14, none⟩,
    ⟨.fuaMid,     0xC0FF1F80, 0x80601C00, 14, none⟩,
    ⟨.fuaEnd,     0xC0FF1F80, 0x80E01C00, 14, none⟩,
    ⟨.nalUnknown, 0xC07F0000, 0x80600000, 12, none⟩,
    ⟨.rejPt,      0xC0000000, 0x80000000, 12, none⟩,
    ⟨.rejVersion, 0x00000000, 0x00000000, 12, none⟩ ]

/-- When a row matches a datagram (30_encoding.md R47). -/
def rowMatches (d : Bytes) (r : OpRow) : Bool :=
  (decodeWord d &&& r.mask) == r.value && r.minLen ≤ d.length &&
    (match r.maxLen with
     | none => true
     | some n => d.length ≤ n)

/-- The operation of the first row that matches (30_encoding.md R47, R48). The table is total, so the
last row's operation stands for "no row" without ever being used for it. -/
def rowOf (d : Bytes) : Op :=
  match opcodeTable.find? (rowMatches d) with
  | some r => r.op
  | none => .rejVersion

/-! ## Fields (30_encoding.md R41) -/

/-- `V = d[0][7:6]`. -/
def versionOf (d : Bytes) : BitVec 2 := (byteAt d 0).extractLsb' 6 2

/-- `M = d[1][7]`. -/
def markerOf (d : Bytes) : BitVec 1 := bitOf (byteAt d 1) 7

/-- `PT = d[1][6:0]`. -/
def payloadTypeOf (d : Bytes) : BitVec 7 := (byteAt d 1).extractLsb' 0 7

/-- `P`, `X`, `CC`, `seq`, `ts` and `ssrc`; multi-byte fields are big-endian. -/
def fieldsOf (d : Bytes) : RtpFields where
  p := bitOf (byteAt d 0) 5
  x := bitOf (byteAt d 0) 4
  cc := (byteAt d 0).extractLsb' 0 4
  seq := be16 (byteAt d 2) (byteAt d 3)
  ts := be32 (byteAt d 4) (byteAt d 5) (byteAt d 6) (byteAt d 7)
  ssrc := be32 (byteAt d 8) (byteAt d 9) (byteAt d 10) (byteAt d 11)

/-- The payload `p = d[12:]`, whatever `P`, `X` and `CC` are (40_rtp_header.md R63). -/
def payloadOf (d : Bytes) : Bytes := d.drop Config.hdrLen

/-! ## The decoder -/

/-- The instruction a datagram stands for (30_encoding.md, introduction). It is total: the opcode
table rejects nothing, since its rows `REJ_SHORT`, `REJ_VERSION` and `REJ_PT` are the rejections. -/
def decode (d : Bytes) : Instr :=
  let m := markerOf d
  let f := fieldsOf d
  let b12 := byteAt d 12
  let b13 := byteAt d 13
  match rowOf d with
  | .rejShort => .rejShort d
  | .nalNonidr => .nalNonidr m f (keepBits b12) (d.drop 13)
  | .nalIdr => .nalIdr m f (keepBits b12) (d.drop 13)
  | .nalSps => .nalSps m f (keepBits b12) (d.drop 13)
  | .nalPps => .nalPps m f (keepBits b12) (d.drop 13)
  | .fuaStart => .fuaStart m f (keepBits b12) (bitOf b13 6) (bitOf b13 5) (typeBits b13) (d.drop 14)
  | .fuaMid => .fuaMid f (keepBits b12) (bitOf b13 6) (bitOf b13 5) (typeBits b13) (d.drop 14)
  | .fuaEnd => .fuaEnd f (keepBits b12) (bitOf b13 6) (bitOf b13 5) (typeBits b13) (d.drop 14)
  | .nalUnknown => .nalUnknown m f (payloadOf d)
  | .rejPt => .rejPt m (payloadTypeOf d) f (payloadOf d)
  | .rejVersion => .rejVersion (versionOf d) m (payloadTypeOf d) f (payloadOf d)

/-! ## The encoder -/

/-- The 12 bytes of an RTP fixed header (30_encoding.md R40). -/
def headerBytes (v : BitVec 2) (m : BitVec 1) (pt : BitVec 7) (f : RtpFields) : Bytes :=
  [(v ++ f.p ++ f.x ++ f.cc : BitVec 8), (m ++ pt : BitVec 8)] ++
    bytesOf16 f.seq ++ bytesOf32 f.ts ++ bytesOf32 f.ssrc

/-- The datagram of an accepted packet: version 2, payload type 96 (30_encoding.md R48). -/
def acceptedBytes (m : BitVec 1) (f : RtpFields) (p : Bytes) : Bytes :=
  headerBytes Config.rtpVersion m Config.ptH264 f ++ p

/-- The datagram of an instruction (30_encoding.md R39, R40, R48). -/
def encode : Instr → Bytes
  | .rejShort d => d
  | .nalNonidr m f nri body => acceptedBytes m f (nalPayload nri Config.nalNonidr body)
  | .nalIdr m f nri body => acceptedBytes m f (nalPayload nri Config.nalIdr body)
  | .nalSps m f nri body => acceptedBytes m f (nalPayload nri Config.nalSps body)
  | .nalPps m f nri body => acceptedBytes m f (nalPayload nri Config.nalPps body)
  | .fuaStart m f ind e r typ frag => acceptedBytes m f (fuaPayload ind 1 e r typ frag)
  | .fuaMid f ind e r typ frag => acceptedBytes 0 f (fuaPayload ind 0 e r typ frag)
  | .fuaEnd f ind e r typ frag => acceptedBytes 1 f (fuaPayload ind 0 e r typ frag)
  | .nalUnknown m f p => acceptedBytes m f p
  | .rejPt m pt f p => headerBytes Config.rtpVersion m pt f ++ p
  | .rejVersion v m pt f p => headerBytes v m pt f ++ p

/-! ## The prose form of the decode map -/

/-- The header checks, in the order length, version, payload type (40_rtp_header.md R60). -/
def headerStatus (d : Bytes) : HdrStatus :=
  if d.length < Config.hdrLen then .rejShort
  else if versionOf d ≠ Config.rtpVersion then .rejVersion
  else if payloadTypeOf d ≠ Config.ptH264 then .rejPt
  else .accepted

/-- The classification of an accepted packet's payload (30_encoding.md R46). -/
def classify : Bytes → Kind
  | [] => .unknown
  | b :: rest =>
    let t := typeBits b
    if t = Config.nalSps then .sps
    else if t = Config.nalPps then .pps
    else if t = Config.nalIdr then .idr
    else if t = Config.nalNonidr then .nonidr
    else if t = Config.nalFua then
      match rest with
      | [] => .unknown
      | h :: _ => if bitOf h 7 = 1 then .fuaStart else .fuaCont
    else .unknown

/-- The operation of a datagram by the prose of 40_rtp_header.md R56: the header checks, then the
classification, then `M` for a continuation. -/
def proseOp (d : Bytes) : Op :=
  match headerStatus d with
  | .rejShort => .rejShort
  | .rejVersion => .rejVersion
  | .rejPt => .rejPt
  | .accepted =>
    match classify (payloadOf d) with
    | .sps => .nalSps
    | .pps => .nalPps
    | .idr => .nalIdr
    | .nonidr => .nalNonidr
    | .fuaStart => .fuaStart
    | .fuaCont => if markerOf d = 0 then .fuaMid else .fuaEnd
    | .unknown | .none => .nalUnknown

/-! ## The packet notation (30_encoding.md R53, R54) -/

/-- The line `RTP v=.. pt=.. m=.. seq=.. ts=.. ssrc=.. pxcc=.. : payload` (30_encoding.md R53). -/
def rtpPacket (v : BitVec 2) (pt : BitVec 7) (m : BitVec 1) (seq : U16) (ts ssrc : U32)
    (pxcc : BitVec 6) (payload : Bytes) : Bytes :=
  [(v ++ pxcc : BitVec 8), (m ++ pt : BitVec 8)] ++
    bytesOf16 seq ++ bytesOf32 ts ++ bytesOf32 ssrc ++ payload

/-- The line `RTP m=.. seq=.. : payload`, every other field at its default (30_encoding.md R53). -/
def rtpDefault (m : BitVec 1) (seq : U16) (payload : Bytes) : Bytes :=
  rtpPacket Config.rtpVersion Config.ptH264 m seq 0 0 0 payload

/-- `SINGLE seq=n m=b : nal` (30_encoding.md R54). -/
def single (seq : U16) (m : BitVec 1) (nal : Bytes) : Bytes := rtpDefault m seq nal

/-- `FUS seq=n m=b nal=h : body`, a start fragment (30_encoding.md R54). -/
def fus (seq : U16) (m : BitVec 1) (h : Byte) (body : Bytes) : Bytes :=
  rtpDefault m seq (((h &&& 0xE0) ||| 28) :: (0x80 ||| (h &&& 0x1F)) :: body)

/-- `FUM seq=n nal=h : body`, a middle fragment (30_encoding.md R54). -/
def fum (seq : U16) (h : Byte) (body : Bytes) : Bytes :=
  rtpDefault 0 seq (((h &&& 0xE0) ||| 28) :: (h &&& 0x1F) :: body)

/-- `FUE seq=n nal=h : body`, an end fragment, its `E` bit set (30_encoding.md R54). -/
def fue (seq : U16) (h : Byte) (body : Bytes) : Bytes :=
  rtpDefault 1 seq (((h &&& 0xE0) ||| 28) :: (0x40 ||| (h &&& 0x1F)) :: body)

/-! ## Words of the opcode table -/

/-- A datagram whose decode word is `w` (30_encoding.md R47): bytes 0, 1, 12 and 13 from the word's
bytes, most significant first, and zeros between. It has 14 bytes, the least length at which every
row of 12 bytes or more can match; a row with no bits (`nbits = 0`) is given the empty datagram, whose
decode word is 0. DESIGN CHOICE (log 13), safe: the table gives a word no length. -/
def tableDatagram (nbits w : Nat) : Bytes :=
  if nbits = 0 then []
  else
    let dw := BitVec.ofNat 32 w
    [dw.extractLsb' 24 8, dw.extractLsb' 16 8, 0, 0, 0, 0, 0, 0, 0, 0, 0, 0,
      dw.extractLsb' 8 8, dw.extractLsb' 0 8]

/-- The instruction the decoder reads from a word of the opcode table. -/
def decodeTableWord (nbits w : Nat) : Option Instr := some (decode (tableDatagram nbits w))

end Sys2Proof
end

