-- ==== Sys2Proof/Machine/State.lean ====
section
/-! DEFINITION. The state of the block (10_state.md R16), what the environment presents to it and what
it puts on its ports, and the state after reset (70_reset_and_hazards.md R131). -/

namespace Sys2Proof.Machine

/-- Reassembler state (10_state.md R18). -/
inductive ReState where
  /-- No access unit in progress; code 0. -/
  | idle
  /-- Bytes being appended for the current access unit; code 1. -/
  | accumulating
  deriving DecidableEq, Repr

/-- The action of a step (60_exceptions.md R119). -/
inductive Action where
  | none | ignored | cachedSps | cachedPps | psDropped | auStarted | auAppended | emitted
  | auDroppedNoRes | orphanDropped | auOverflow
  deriving DecidableEq, Repr

/-- The output record of a step (60_exceptions.md R121). One-bit event flags are `Bool`; the bits of
the header keep their widths. -/
structure Out where
  hdrStatus : HdrStatus
  kind : Kind
  action : Action
  v : BitVec 2
  p : BitVec 1
  x : BitVec 1
  cc : BitVec 4
  m : BitVec 1
  pt : BitVec 7
  seq : U16
  ts : U32
  ssrc : U32
  payloadLen : Nat
  seqExpectedValid : Bool
  seqExpected : U16
  seqAnomaly : Bool
  resChange : Bool
  auAbandoned : Bool
  attemptedLen : Nat
  reStateAfter : ReState
  widthAfter : Nat
  heightAfter : Nat
  anomalyCountAfter : U32
  deriving DecidableEq, Repr

/-- A frame on `frame_out` (44_frame_boundary.md R110). -/
structure Frame where
  width : Nat
  height : Nat
  fourcc : U32
  size : Nat
  data : Bytes
  deriving DecidableEq, Repr

/-- What an operation of the reassembler or the cache reports of itself: the action, its event flags
and the frame it emits (60_exceptions.md R119, R120; 44_frame_boundary.md R110). -/
structure Report where
  action : Action
  resChange : Bool := false
  auAbandoned : Bool := false
  attemptedLen : Nat := 0
  frame : Option Frame := none
  deriving DecidableEq, Repr

/-- What the environment presents for one step (00_scope.md R11). -/
inductive Input where
  /-- A datagram on `rx`. -/
  | datagram (d : Bytes)
  /-- A reset request on `rst`. -/
  | reset
  deriving DecidableEq, Repr

/-- The state of the machine. The first eight fields are the block's own (10_state.md R16); the rest
are the model's: the parameters (log 1), the environment's inputs (log 4), whether reset has been
applied (log 8), and what stands on the two output ports in the step just made (log 6). -/
structure State where
  /-- `(seq_valid, seq_last)` as an option (10_state.md R17; log 7). -/
  seqLast : Option U16
  /-- `re_state` (10_state.md R18). -/
  reState : ReState
  /-- `au_buf` (10_state.md R19). -/
  auBuf : Bytes
  /-- `sps_buf` (10_state.md R20). -/
  spsBuf : Bytes
  /-- `pps_buf` (10_state.md R20). -/
  ppsBuf : Bytes
  /-- `width` (10_state.md R21; log 3). -/
  width : Nat
  /-- `height` (10_state.md R21; log 3). -/
  height : Nat
  /-- `seq_anomaly_count` (10_state.md R22). -/
  anomalyCount : U32
  /-- The parameters of 00_scope.md R8; no step writes them. -/
  params : Config.Params
  /-- What the environment will present, in order (60_exceptions.md R125). -/
  input : List Input
  /-- Whether reset has been applied since power-on (70_reset_and_hazards.md R134). -/
  resetDone : Bool
  /-- The record on `status` in the step just made (60_exceptions.md R121). -/
  out : Option Out
  /-- The frame on `frame_out` in the step just made (44_frame_boundary.md R110). -/
  frameOut : Option Frame
  deriving DecidableEq, Repr

/-- The machine stops with a fault: never. No condition of the block raises a trap or halts it
(60_exceptions.md R116), so the type has no constructor (log 12). Safe: there is nothing to stop on. -/
inductive Fault where
  deriving DecidableEq, Repr

/-- The reasons a step has no meaning. -/
inductive Refusal where
  /-- An instruction without a meaning; raised by `exec` alone, and by no arm of it. Safe. -/
  | notModelled (mnemonic : String)
  /-- A datagram longer than `DGRAM_MAX_BYTES` was presented; raised by `step`. The spec gives it no
  step (20_memory.md R28; log 9). Safe. -/
  | datagramTooLong
  /-- A datagram was presented before the first reset; raised by `step`. The spec gives it no step
  (70_reset_and_hazards.md R134; log 8). Safe. -/
  | beforeReset
  deriving DecidableEq, Repr

/-- The state after reset of a block with the given parameters (70_reset_and_hazards.md R131): nothing
presented yet, no record and no frame on the ports. -/
def State.resetWith (p : Config.Params) : State where
  seqLast := none
  reState := .idle
  auBuf := []
  spsBuf := []
  ppsBuf := []
  width := 0
  height := 0
  anomalyCount := 0
  params := p
  input := []
  resetDone := true
  out := none
  frameOut := none

/-- The machine right after reset (70_reset_and_hazards.md R131), its parameters uninterpreted. -/
def State.reset : State := State.resetWith Config.params

end Sys2Proof.Machine
end

