-- ==== Sys2Proof/Machine/Flags.lean ====
section
/-! DEFINITION. The codes and the event flags of a step (60_exceptions.md R117 to R120). The block has
no condition codes (10_state.md section 4); its flags are the conditions computed here. -/

namespace Sys2Proof.Machine

/-! ## Codes -/

/-- `hdr_status`, 2 bits (60_exceptions.md R117). -/
def hdrStatusCode : HdrStatus → BitVec 2
  | .accepted => 0
  | .rejShort => 1
  | .rejVersion => 2
  | .rejPt => 3

/-- `kind`, 3 bits (60_exceptions.md R118). -/
def kindCode : Kind → BitVec 3
  | .none => 0
  | .sps => 1
  | .pps => 2
  | .idr => 3
  | .nonidr => 4
  | .fuaStart => 5
  | .fuaCont => 6
  | .unknown => 7

/-- `action`, 4 bits (60_exceptions.md R119). -/
def actionCode : Action → BitVec 4
  | .none => 0
  | .ignored => 1
  | .cachedSps => 2
  | .cachedPps => 3
  | .psDropped => 4
  | .auStarted => 5
  | .auAppended => 6
  | .emitted => 7
  | .auDroppedNoRes => 8
  | .orphanDropped => 9
  | .auOverflow => 10

/-- `re_state` on the status output, 1 bit (10_state.md R18). -/
def reStateCode : ReState → BitVec 1
  | .idle => 0
  | .accumulating => 1

/-! ## Conditions -/

/-- The sequence number the tracker expects, if it has one: `(seq_last + 1) mod 65536`
(41_sequence_tracker.md R68). -/
def seqExpected (s : State) : Option U16 := s.seqLast.map (· + 1)

/-- Whether a sequence number is an anomaly: there is an expectation and it differs
(41_sequence_tracker.md R68, R69). The first packet is in order. -/
def seqAnomaly (s : State) (seq : U16) : Bool :=
  match seqExpected s with
  | none => false
  | some e => seq != e

/-- Whether parsed dimensions replace the stored ones: both non-zero and the pair different
(42_parameter_sets.md R81). -/
def resChange (s : State) (w h : Nat) : Bool :=
  w != 0 && h != 0 && (w, h) != (s.width, s.height)

/-- Whether an operation that begins an access unit abandons one in progress
(43_reassembler.md R90). -/
def abandons (s : State) : Bool := s.reState == .accumulating

/-- Whether a whole access unit of `n` bytes does not fit (43_reassembler.md R102): exactly
`AU_MAX_BYTES` is allowed. -/
def auTooLong (s : State) (n : Nat) : Bool := s.params.auMaxBytes < n

/-- Whether the dimensions are known, so that a complete access unit is emitted
(44_frame_boundary.md R109). -/
def dimsKnown (s : State) : Bool := 0 < s.width && 0 < s.height

end Sys2Proof.Machine
end

