-- ==== Sys2Proof/Machine/Ops.lean ====
section
/-! DEFINITION. The named operations over the state: the byte buffers, the reset step, the output
record and the ports. The block has no exceptions: nothing is saved, nothing is vectored, and the
spec's `raise` records an event in the step's record (60_exceptions.md R116, 00_scope.md R10), so what
stands here in the place of taking an exception is `publish`, and there is no return from one. -/

namespace Sys2Proof.Machine

/-! ## The byte buffers (20_memory.md R31, R32) -/

/-- The replace form of a write of `au_buf`, which leaves an access unit in progress
(20_memory.md R31, 43_reassembler.md R95). -/
def auReplace (s : State) (v : Bytes) : State := { s with auBuf := v, reState := .accumulating }

/-- `au_buf` emptied on the way to `Idle` (10_state.md R24). -/
def auClear (s : State) : State := { s with auBuf := [], reState := .idle }

/-- The whole replacement of `sps_buf` (20_memory.md R32). -/
def spsReplace (s : State) (p : Bytes) : State := { s with spsBuf := p }

/-- The whole replacement of `pps_buf` (20_memory.md R32). -/
def ppsReplace (s : State) (p : Bytes) : State := { s with ppsBuf := p }

/-- The dimensions replaced (42_parameter_sets.md R81). -/
def dimsReplace (s : State) (w h : Nat) : State := { s with width := w, height := h }

/-- Whether the three byte buffers are within their bounds (10_state.md R16). The byte spaces are byte
sequences, each its own canonical form: there are no cells at addresses (20_memory.md R35; log 11). -/
def Memory.wf (s : State) : Bool :=
  s.auBuf.length ≤ s.params.auMaxBytes && s.spsBuf.length ≤ s.params.spsMaxBytes &&
    s.ppsBuf.length ≤ s.params.ppsMaxBytes

/-! ## Start codes (43_reassembler.md R88, R94) -/

/-- A NAL unit behind its start code (43_reassembler.md R88). -/
def withStartCode (nal : Bytes) : Bytes := Config.startCode ++ nal

/-- The parameter-set prefix, both start codes written even before an empty cache
(43_reassembler.md R94). -/
def psPrefix (s : State) : Bytes := withStartCode s.spsBuf ++ withStartCode s.ppsBuf

/-! ## The SPS oracle (42_parameter_sets.md R80) -/

/-- The answer of the `sps_parse` port to the bytes offered: two `DIM_BITS`-bit words. The parameters
may pin it at listed byte sequences; elsewhere it is uninterpreted. DESIGN CHOICE (log 2), safe. -/
def spsParse (s : State) (p : Bytes) : Nat × Nat :=
  let a := (s.params.spsAnswers.lookup p).getD (Config.parseSps p)
  (a.1 % 2 ^ s.params.dimBits, a.2 % 2 ^ s.params.dimBits)

/-! ## The output record and the ports (60_exceptions.md R121) -/

/-- `OUT_DEFAULT`: every field 0. -/
def outDefault : Out where
  hdrStatus := .accepted
  kind := .none
  action := .none
  v := 0
  p := 0
  x := 0
  cc := 0
  m := 0
  pt := 0
  seq := 0
  ts := 0
  ssrc := 0
  payloadLen := 0
  seqExpectedValid := false
  seqExpected := 0
  seqAnomaly := false
  resChange := false
  auAbandoned := false
  attemptedLen := 0
  reStateAfter := .idle
  widthAfter := 0
  heightAfter := 0
  anomalyCountAfter := 0

/-- The record of a rejected datagram (40_rtp_header.md R61). -/
def rejectedOut (st : HdrStatus) : Out := { outDefault with hdrStatus := st }

/-- The record of an accepted datagram: its header fields (40_rtp_header.md R62), what the tracker
expected of it in state `s` (41_sequence_tracker.md R68, R69), and what the operation reports. -/
def acceptedOut (s : State) (m : BitVec 1) (f : RtpFields) (p : Bytes) (k : Kind) (r : Report) :
    Out :=
  { outDefault with
    hdrStatus := .accepted
    kind := k
    action := r.action
    v := Config.rtpVersion
    p := f.p
    x := f.x
    cc := f.cc
    m := m
    pt := Config.ptH264
    seq := f.seq
    ts := f.ts
    ssrc := f.ssrc
    payloadLen := p.length
    seqExpectedValid := (seqExpected s).isSome
    seqExpected := (seqExpected s).getD 0
    seqAnomaly := seqAnomaly s f.seq
    resChange := r.resChange
    auAbandoned := r.auAbandoned
    attemptedLen := r.attemptedLen }

/-- The end of a step that consumes a datagram: the record goes to `status`, its last four fields
showing the state after the step, and the frame, if any, to `frame_out` (60_exceptions.md R121,
44_frame_boundary.md R110). -/
def publish (s : State) (o : Out) (fr : Option Frame) : State :=
  { s with
    out := some { o with
      reStateAfter := s.reState
      widthAfter := s.width
      heightAfter := s.height
      anomalyCountAfter := s.anomalyCount }
    frameOut := fr }

/-- A rejected datagram: no element of the block changes (40_rtp_header.md R61). -/
def reject (s : State) (st : HdrStatus) : State := publish s (rejectedOut st) none

/-! ## Reset and quiet (70_reset_and_hazards.md R131, 60_exceptions.md R130) -/

/-- The reset step: every element of the block at its reset value, no record, no frame
(70_reset_and_hazards.md R131). The parameters and the environment's inputs are not the block's to
reset. -/
def applyReset (s : State) : State :=
  { State.resetWith s.params with input := s.input }

/-- No input is presented: the block holds its state (60_exceptions.md R130) and nothing is on its
ports. DESIGN CHOICE (log 5), safe. -/
def quiet (s : State) : State := { s with out := none, frameOut := none }

end Sys2Proof.Machine
end

