-- ==== Sys2Proof/Machine/SequenceTracker.lean ====
section
/-! DEFINITION. The sequence-loss tracker (41_sequence_tracker.md), which runs on every accepted
datagram before its payload is processed, and the frame it shares with every accepted operation. -/

namespace Sys2Proof.Machine

/-- The tracker: the anomaly counted modulo 2^32, the sequence number recorded in every case
(41_sequence_tracker.md R70, R72). -/
def seqTrack (s : State) (seq : U16) : State :=
  { s with
    seqLast := some seq
    anomalyCount := if seqAnomaly s seq then s.anomalyCount + 1 else s.anomalyCount }

/-- The step of an accepted datagram (40_rtp_header.md R56): the tracker, then the operation `op` on
the payload `p`, then the record. -/
def accept (k : Kind) (op : State → Bytes → State × Report) (m : BitVec 1) (f : RtpFields) (p : Bytes)
    (s : State) : State :=
  let res := op (seqTrack s f.seq) p
  publish res.1 (acceptedOut s m f p k res.2) res.2.frame

end Sys2Proof.Machine
end

