-- ==== Sys2Proof/Machine/ParameterSets.lean ====
section
/-! DEFINITION. The parameter-set cache: `NAL_SPS` and `NAL_PPS` (42_parameter_sets.md). -/

namespace Sys2Proof.Machine

/-- A parameter set longer than its bound: dropped, the cache and the dimensions kept, the oracle not
consulted (42_parameter_sets.md R82). -/
def psOverflow (s : State) (p : Bytes) : State × Report :=
  (s, { action := .psDropped, attemptedLen := p.length })

/-- The dimension update of an SPS whose parse gives `w` and `h` (42_parameter_sets.md R81, R83). -/
def updateDims (s : State) (w h : Nat) : State × Report :=
  if resChange s w h then (dimsReplace s w h, { action := .cachedSps, resChange := true })
  else (s, { action := .cachedSps })

/-- `op_sps(s, p)` (42_parameter_sets.md R79). -/
def opSps (s : State) (p : Bytes) : State × Report :=
  if s.params.spsMaxBytes < p.length then psOverflow s p
  else updateDims (spsReplace s p) (spsParse s p).1 (spsParse s p).2

/-- `op_pps(s, p)` (42_parameter_sets.md R84). -/
def opPps (s : State) (p : Bytes) : State × Report :=
  if s.params.ppsMaxBytes < p.length then psOverflow s p
  else (ppsReplace s p, { action := .cachedPps })

/-- `NAL_SPS` (42_parameter_sets.md R79). -/
def execNalSps (m : BitVec 1) (f : RtpFields) (nri : BitVec 3) (body : Bytes) (s : State) :
    Host.Outcome State Fault Refusal :=
  .next (accept .sps opSps m f (nalPayload nri Config.nalSps body) s)

/-- `NAL_PPS` (42_parameter_sets.md R84). -/
def execNalPps (m : BitVec 1) (f : RtpFields) (nri : BitVec 3) (body : Bytes) (s : State) :
    Host.Outcome State Fault Refusal :=
  .next (accept .pps opPps m f (nalPayload nri Config.nalPps body) s)

end Sys2Proof.Machine
end

