-- ==== Sys2Proof/Machine/FrameBoundary.lean ====
section
/-! DEFINITION. Completion, emission and overflow of an access unit (44_frame_boundary.md R108 to
R110, 43_reassembler.md R102, R103). -/

namespace Sys2Proof.Machine

/-- The frame record of a complete access unit (44_frame_boundary.md R110). -/
def frameOf (s : State) (v : Bytes) : Frame where
  width := s.width
  height := s.height
  fourcc := s.params.fourcc
  size := v.length
  data := v

/-- `complete(s, v)`: emitted if the dimensions are known, else dropped; `Idle` and an empty buffer
either way (44_frame_boundary.md R108). -/
def complete (s : State) (v : Bytes) : State × Report :=
  (auClear s,
    if dimsKnown s then { action := .emitted, frame := some (frameOf s v) }
    else { action := .auDroppedNoRes })

/-- `au_overflow(s, n)`: the access unit is discarded (43_reassembler.md R103). -/
def auOverflow (s : State) (n : Nat) : State × Report :=
  (auClear s, { action := .auOverflow, attemptedLen := n })

/-- A complete access unit handed over, behind the bound check (43_reassembler.md R92, R93, R97). -/
def handOver (s : State) (v : Bytes) : State × Report :=
  if auTooLong s v.length then auOverflow s v.length else complete s v

/-- An access unit left in progress with the bytes `v`, behind the bound check
(43_reassembler.md R95, R96). -/
def hold (s : State) (v : Bytes) (a : Action) : State × Report :=
  if auTooLong s v.length then auOverflow s v.length else (auReplace s v, { action := a })

/-- The report of an operation that begins an access unit in state `s`, with the event `AU_ABANDONED`
where one was in progress (43_reassembler.md R90). -/
def beginning (s : State) (res : State × Report) : State × Report :=
  (res.1, { res.2 with auAbandoned := abandons s })

end Sys2Proof.Machine
end

