-- ==== Sys2Proof/Machine/Reassembler.lean ====
section
/-! DEFINITION. The NAL reassembler: `NAL_IDR`, `NAL_NONIDR`, `FUA_START`, `FUA_MID`, `FUA_END` and
`NAL_UNKNOWN` (43_reassembler.md). -/

namespace Sys2Proof.Machine

/-! ## Operations on a payload -/

/-- `op_idr(s, p)` (43_reassembler.md R92). -/
def opIdr (s : State) (p : Bytes) : State × Report :=
  beginning s (handOver s (psPrefix s ++ withStartCode p))

/-- `op_nonidr(s, p)` (43_reassembler.md R93). -/
def opNonidr (s : State) (p : Bytes) : State × Report :=
  beginning s (handOver s (withStartCode p))

/-- What `op_fua_start` puts before the start code of a NAL unit with header `r`: the parameter-set
prefix for an IDR slice, nothing for every other type (43_reassembler.md R95, R99). -/
def startPrefix (s : State) (r : Byte) : Bytes :=
  if typeBits r = Config.nalIdr then psPrefix s else []

/-- `op_fua_start(s, p)` (43_reassembler.md R95). -/
def opFuaStart (s : State) (p : Bytes) : State × Report :=
  let r := recon (byteAt p 0) (byteAt p 1)
  beginning s (hold s (startPrefix s r ++ withStartCode (r :: fragment p)) .auStarted)

/-- `orphan(s)`: a continuation in `Idle` is discarded (43_reassembler.md R98). -/
def orphan (s : State) : State × Report := (s, { action := .orphanDropped })

/-- `op_fua_mid(s, p)` (43_reassembler.md R96). -/
def opFuaMid (s : State) (p : Bytes) : State × Report :=
  match s.reState with
  | .idle => orphan s
  | .accumulating => hold s (s.auBuf ++ fragment p) .auAppended

/-- `op_fua_end(s, p)` (43_reassembler.md R97). -/
def opFuaEnd (s : State) (p : Bytes) : State × Report :=
  match s.reState with
  | .idle => orphan s
  | .accumulating => handOver s (s.auBuf ++ fragment p)

/-- `op_unknown(s)`: ignored (43_reassembler.md R104). -/
def opUnknown (s : State) (_p : Bytes) : State × Report := (s, { action := .ignored })

/-! ## Meanings -/

/-- `NAL_IDR` (43_reassembler.md R92). -/
def execNalIdr (m : BitVec 1) (f : RtpFields) (nri : BitVec 3) (body : Bytes) (s : State) :
    Host.Outcome State Fault Refusal :=
  .next (accept .idr opIdr m f (nalPayload nri Config.nalIdr body) s)

/-- `NAL_NONIDR` (43_reassembler.md R93). -/
def execNalNonidr (m : BitVec 1) (f : RtpFields) (nri : BitVec 3) (body : Bytes) (s : State) :
    Host.Outcome State Fault Refusal :=
  .next (accept .nonidr opNonidr m f (nalPayload nri Config.nalNonidr body) s)

/-- `FUA_START` (43_reassembler.md R95), whatever `M` and `E` are (44_frame_boundary.md R113). -/
def execFuaStart (m : BitVec 1) (f : RtpFields) (ind : BitVec 3) (e r : BitVec 1) (typ : BitVec 5)
    (frag : Bytes) (s : State) : Host.Outcome State Fault Refusal :=
  .next (accept .fuaStart opFuaStart m f (fuaPayload ind 1 e r typ frag) s)

/-- `FUA_MID` (43_reassembler.md R96), whatever `E` is (44_frame_boundary.md R112). -/
def execFuaMid (f : RtpFields) (ind : BitVec 3) (e r : BitVec 1) (typ : BitVec 5) (frag : Bytes)
    (s : State) : Host.Outcome State Fault Refusal :=
  .next (accept .fuaCont opFuaMid 0 f (fuaPayload ind 0 e r typ frag) s)

/-- `FUA_END` (43_reassembler.md R97), whatever `E` is (44_frame_boundary.md R112). -/
def execFuaEnd (f : RtpFields) (ind : BitVec 3) (e r : BitVec 1) (typ : BitVec 5) (frag : Bytes)
    (s : State) : Host.Outcome State Fault Refusal :=
  .next (accept .fuaCont opFuaEnd 1 f (fuaPayload ind 0 e r typ frag) s)

/-- `NAL_UNKNOWN` (43_reassembler.md R104). -/
def execNalUnknown (m : BitVec 1) (f : RtpFields) (p : Bytes) (s : State) :
    Host.Outcome State Fault Refusal :=
  .next (accept .unknown opUnknown m f p s)

end Sys2Proof.Machine
end

