-- ==== Sys2Proof/Machine/RtpHeader.lean ====
section
/-! DEFINITION. The rejections of the RTP header parser: `REJ_SHORT`, `REJ_VERSION`, `REJ_PT`
(40_rtp_header.md R57 to R61). -/

namespace Sys2Proof.Machine

/-- `REJ_SHORT` (40_rtp_header.md R57): no field is read. -/
def execRejShort (_d : Bytes) (s : State) : Host.Outcome State Fault Refusal :=
  .next (reject s .rejShort)

/-- `REJ_VERSION` (40_rtp_header.md R58). -/
def execRejVersion (_v : BitVec 2) (_m : BitVec 1) (_pt : BitVec 7) (_f : RtpFields) (_p : Bytes)
    (s : State) : Host.Outcome State Fault Refusal :=
  .next (reject s .rejVersion)

/-- `REJ_PT` (40_rtp_header.md R59). -/
def execRejPt (_m : BitVec 1) (_pt : BitVec 7) (_f : RtpFields) (_p : Bytes) (s : State) :
    Host.Outcome State Fault Refusal :=
  .next (reject s .rejPt)

end Sys2Proof.Machine
end

