-- ==== Sys2Proof/Machine/Dispatch.lean ====
section
/-! DEFINITION. From an instruction to its meaning, one arm for each row of the opcode table. -/

namespace Sys2Proof.Machine

/-- The execution of one decoded datagram (40_rtp_header.md R56). -/
def exec (i : Instr) (s : State) : Host.Outcome State Fault Refusal :=
  match i with
  | .rejShort d => Sys2Proof.Machine.execRejShort d s
  | .nalNonidr m f nri body => Sys2Proof.Machine.execNalNonidr m f nri body s
  | .nalIdr m f nri body => Sys2Proof.Machine.execNalIdr m f nri body s
  | .nalSps m f nri body => Sys2Proof.Machine.execNalSps m f nri body s
  | .nalPps m f nri body => Sys2Proof.Machine.execNalPps m f nri body s
  | .fuaStart m f ind e r typ frag => Sys2Proof.Machine.execFuaStart m f ind e r typ frag s
  | .fuaMid f ind e r typ frag => Sys2Proof.Machine.execFuaMid f ind e r typ frag s
  | .fuaEnd f ind e r typ frag => Sys2Proof.Machine.execFuaEnd f ind e r typ frag s
  | .nalUnknown m f p => Sys2Proof.Machine.execNalUnknown m f p s
  | .rejPt m pt f p => Sys2Proof.Machine.execRejPt m pt f p s
  | .rejVersion v m pt f p => Sys2Proof.Machine.execRejVersion v m pt f p s

end Sys2Proof.Machine
end

