-- ==== Sys2Proof/Machine/Receive.lean ====
section
/-! DEFINITION. The input ports: what a step does with what the environment presents (00_scope.md R5,
R11; 40_rtp_header.md R56), and how one word of the opcode table is presented. -/

namespace Sys2Proof.Machine

/-- A datagram on `rx`: refused before the first reset (70_reset_and_hazards.md R134) and beyond
`DGRAM_MAX_BYTES` (20_memory.md R28), else decoded and executed (40_rtp_header.md R56). -/
def receive (d : Bytes) (s : State) : Host.Outcome State Fault Refusal :=
  if s.resetDone then
    if fits d s.params.dgramMaxBytes then exec (decode d) s
    else .refused .datagramTooLong
  else .refused .beforeReset

/-- One step on the inputs still to be presented: the first of them, in order (20_memory.md R36), or
none. -/
def present (s : State) : Host.Outcome State Fault Refusal :=
  match s.input with
  | [] => .next (quiet s)
  | .reset :: rest => .next (applyReset { s with input := rest })
  | .datagram d :: rest => receive d { s with input := rest }

/-- The datagram `d` presented next, to a block that has been reset and whose `DGRAM_MAX_BYTES` is at
least the length of `d` (raised to it where it is less). -/
def presentNext (s : State) (d : Bytes) : State :=
  { s with
    input := .datagram d :: s.input
    resetDone := true
    params := { s.params with
      dgramMaxBytes := s.params.dgramMaxBytes - d.length + d.length } }

end Sys2Proof.Machine
end

