-- ==== Sys2Proof/Machine/Step.lean ====
section
/-! DEFINITION. The step of the machine, and the presentation of one word of the opcode table. -/

namespace Sys2Proof.Machine

/-- One step: one datagram or one reset request (00_scope.md R5), or nothing where nothing is
presented (60_exceptions.md R130). -/
def step (s : State) : Host.Outcome State Fault Refusal := present s

/-- The datagram of a word of the opcode table presented to the block, so that the next step runs it.
The block fetches nothing: the environment presents (log 4, log 13). -/
def State.withFetchWord (s : State) (nbits w : Nat) : State := presentNext s (tableDatagram nbits w)

end Sys2Proof.Machine
end

