-- ==== Sys2Proof/Safety.lean ====
section
/-! DEFINITION. The terms that claims about the machine are made in: what two states agree on, what a
record says, which bytes an instruction is to write, and the invariant of a run (10_state.md R24, R25).
They are written from the spec's rules and not from the meanings. -/

namespace Sys2Proof.Machine

/-! ## What two states agree on -/

/-- The tracker's elements are the same (10_state.md R17, R22). -/
abbrev SameTracker (s t : State) : Prop := t.seqLast = s.seqLast ∧ t.anomalyCount = s.anomalyCount

/-- The reassembler's elements are the same (10_state.md R18, R19). -/
abbrev SameReassembler (s t : State) : Prop := t.reState = s.reState ∧ t.auBuf = s.auBuf

/-- The parameter-set cache and the dimensions are the same (10_state.md R20, R21). -/
abbrev SameCache (s t : State) : Prop :=
  t.spsBuf = s.spsBuf ∧ t.ppsBuf = s.ppsBuf ∧ t.width = s.width ∧ t.height = s.height

/-- Every element of the block is the same (10_state.md R16). -/
abbrev SameElements (s t : State) : Prop :=
  SameTracker s t ∧ SameReassembler s t ∧ SameCache s t

/-- What is not the block's is the same: the parameters, the inputs to come, the reset flag. -/
abbrev SameSurround (s t : State) : Prop :=
  t.params = s.params ∧ t.input = s.input ∧ t.resetDone = s.resetDone

/-! ## What an accepted datagram's sequence number does -/

/-- The tracker's elements after a datagram with sequence number `q` (41_sequence_tracker.md R68, R70,
R72). -/
def Tracked (s t : State) (q : U16) : Prop :=
  t.seqLast = some q ∧
    t.anomalyCount =
      match s.seqLast with
      | none => s.anomalyCount
      | some n => if q = n + 1 then s.anomalyCount else s.anomalyCount + 1

/-- The sequence number of an instruction of an accepted datagram (41_sequence_tracker.md R67). -/
def seqOf : Instr → Option U16
  | .rejShort _ | .rejPt _ _ _ _ | .rejVersion _ _ _ _ _ => none
  | .nalNonidr _ f _ _ | .nalIdr _ f _ _ | .nalSps _ f _ _ | .nalPps _ f _ _
  | .fuaStart _ f _ _ _ _ _ | .fuaMid f _ _ _ _ _ | .fuaEnd f _ _ _ _ _ | .nalUnknown _ f _ =>
    some f.seq

/-! ## What a record says -/

/-- The part of a record that tells the operation's outcome (60_exceptions.md R117 to R120). -/
structure Summary where
  status : HdrStatus
  kind : Kind
  action : Action
  resChange : Bool
  auAbandoned : Bool
  attemptedLen : Nat
  deriving DecidableEq, Repr

/-- The summary of a record. -/
def summaryOf (o : Out) : Summary :=
  ⟨o.hdrStatus, o.kind, o.action, o.resChange, o.auAbandoned, o.attemptedLen⟩

/-- The record on the status port has this summary. -/
abbrev Reports (t : State) (y : Summary) : Prop := t.out.map summaryOf = some y

/-- Two states show the same outcome to the outside: the same summary, the same frame. -/
abbrev SameReport (t u : State) : Prop :=
  u.out.map summaryOf = t.out.map summaryOf ∧ u.frameOut = t.frameOut

/-! ## Which bytes an instruction is to write -/

/-- The bytes written before an IDR slice, from the caches as they stand (43_reassembler.md R94). -/
def cachedPrefix (s : State) : Bytes := [0, 0, 1] ++ s.spsBuf ++ [0, 0, 1] ++ s.ppsBuf

/-- The bytes `au_buf` would hold after an instruction's write, for the instructions that write it
(43_reassembler.md R92, R93, R95 to R97); none for an orphan (R98) and for every other instruction. -/
def auWrite (i : Instr) (s : State) : Option Bytes :=
  match i with
  | .nalIdr _ _ nri body => some (cachedPrefix s ++ [0, 0, 1] ++ (nri ++ 5#5 : Byte) :: body)
  | .nalNonidr _ _ nri body => some ([0, 0, 1] ++ (nri ++ 1#5 : Byte) :: body)
  | .fuaStart _ _ ind _ _ typ frag =>
    some ((if typ = 5 then cachedPrefix s else []) ++ [0, 0, 1] ++ (ind ++ typ : Byte) :: frag)
  | .fuaMid _ _ _ _ _ frag | .fuaEnd _ _ _ _ _ frag =>
    if s.reState = .accumulating then some (s.auBuf ++ frag) else none
  | .rejShort _ | .nalSps _ _ _ _ | .nalPps _ _ _ _ | .nalUnknown _ _ _ | .rejPt _ _ _ _
  | .rejVersion _ _ _ _ _ => none

/-- Whether an instruction's write makes a complete access unit (44_frame_boundary.md R106). -/
def completes (o : Op) : Bool := o = .nalIdr || o = .nalNonidr || o = .fuaEnd

/-- Whether an instruction begins an access unit (43_reassembler.md R90). -/
def begins (o : Op) : Bool := o = .nalIdr || o = .nalNonidr || o = .fuaStart

/-- What becomes of a complete access unit `v` of a datagram of kind `k` (43_reassembler.md R102, R103;
44_frame_boundary.md R108): discarded when it is too long, dropped when the dimensions are unknown,
else emitted; `Idle` and an empty buffer in every case. `ab` tells whether another access unit was
abandoned for it. -/
def HandedOver (s t : State) (k : Kind) (ab : Bool) (v : Bytes) : Prop :=
  t.reState = .idle ∧ t.auBuf = [] ∧
    if s.params.auMaxBytes < v.length then
      t.frameOut = none ∧ Reports t ⟨.accepted, k, .auOverflow, false, ab, v.length⟩
    else if s.width = 0 ∨ s.height = 0 then
      t.frameOut = none ∧ Reports t ⟨.accepted, k, .auDroppedNoRes, false, ab, 0⟩
    else
      t.frameOut = some ⟨s.width, s.height, s.params.fourcc, v.length, v⟩ ∧
        Reports t ⟨.accepted, k, .emitted, false, ab, 0⟩

/-- What becomes of the bytes `v` of an access unit that stays in progress, of a datagram of kind `k`
whose action is `a` (43_reassembler.md R95, R96, R103). -/
def Held (s t : State) (k : Kind) (a : Action) (ab : Bool) (v : Bytes) : Prop :=
  t.frameOut = none ∧
    if s.params.auMaxBytes < v.length then
      t.reState = .idle ∧ t.auBuf = [] ∧
        Reports t ⟨.accepted, k, .auOverflow, false, ab, v.length⟩
    else
      t.reState = .accumulating ∧ t.auBuf = v ∧ Reports t ⟨.accepted, k, a, false, ab, 0⟩

/-- The fragment bytes of the datagrams between a start and an end fragment, where each is a middle
fragment, an SPS, a PPS or an unknown payload (43_reassembler.md R105). -/
def fragmentsBetween : List Bytes → Option Bytes
  | [] => some []
  | d :: ds =>
    match decode d with
    | .fuaMid _ _ _ _ _ frag => (fragmentsBetween ds).map (frag ++ ·)
    | .nalSps _ _ _ _ | .nalPps _ _ _ _ | .nalUnknown _ _ _ => fragmentsBetween ds
    | .rejShort _ | .nalNonidr _ _ _ _ | .nalIdr _ _ _ _ | .fuaStart _ _ _ _ _ _ _
    | .fuaEnd _ _ _ _ _ _ | .rejPt _ _ _ _ | .rejVersion _ _ _ _ _ => none

/-! ## The invariant of a run -/

/-- What holds after every step and after reset: an empty buffer while `Idle` (10_state.md R24); a
start code and a bound of 4 bytes from below while `Accumulating` (R25); the buffers within their
bounds (R16); dimensions of `DIM_BITS` bits, known together or not at all (42_parameter_sets.md R81),
and unknown while no SPS is cached (43_reassembler.md R94); parameters as 00_scope.md R8 constrains
them. -/
abbrev RunInv (s : State) : Prop :=
  (s.reState = .idle → s.auBuf = []) ∧
  (s.reState = .accumulating → 4 ≤ s.auBuf.length ∧ s.auBuf.take 3 = [0, 0, 1]) ∧
  Memory.wf s = true ∧
  s.width < 2 ^ s.params.dimBits ∧ s.height < 2 ^ s.params.dimBits ∧
  (s.width = 0 ↔ s.height = 0) ∧
  (s.spsBuf = [] → s.width = 0) ∧
  s.params.Valid

end Sys2Proof.Machine
end

