-- ==== Sys2Proof/Certificates/Slice0/Obligations.lean ====
section
/-! DEFINITION. The statements for the provers, in the order of the spec's files. Each docstring names
the rule it formalises; `Machine/` is the model, `Safety` the terms. -/

open Sys2Proof Sys2Proof.Machine

/-! ## Reset and the step -/

/-- 70_reset_and_hazards.md R131: a reset step writes every element of the block its reset value and
produces no record and no frame. That it consumes the request, keeps the parameters and marks the block
as reset is the model's choice (log 1, log 4, log 8). -/
def Obligations.ResetStepWritesEveryResetValue : Prop :=
  ∀ (s : State) (rest : List Input), s.input = .reset :: rest →
    step s = .next
      { seqLast := none, reState := .idle, auBuf := [], spsBuf := [], ppsBuf := [], width := 0,
        height := 0, anomalyCount := 0, params := s.params, input := rest, resetDone := true,
        out := none, frameOut := none }

/-- 70_reset_and_hazards.md R131: the state after reset itself. -/
def Obligations.StateAfterResetHoldsTheResetValues : Prop :=
  State.reset.seqLast = none ∧ State.reset.reState = .idle ∧ State.reset.auBuf = [] ∧
    State.reset.spsBuf = [] ∧ State.reset.ppsBuf = [] ∧ State.reset.width = 0 ∧
    State.reset.height = 0 ∧ State.reset.anomalyCount = 0 ∧ State.reset.out = none ∧
    State.reset.frameOut = none

/-- 70_reset_and_hazards.md R132: two resets in a row give the same state as one, and no datagram does
what only reset does: the tracker never returns to "no sequence number", the counter goes up by one or
stays, the caches and the dimensions are never cleared. -/
def Obligations.ResetIsIdempotentAndNothingElseResets : Prop :=
  (∀ (s : State) (rest : List Input), s.input = .reset :: .reset :: rest →
    ∃ t, step s = .next t ∧ step t = .next { t with input := rest }) ∧
  (∀ (i : Instr) (s : State), ∃ t, exec i s = .next t ∧
    (s.seqLast ≠ none → t.seqLast ≠ none) ∧
    (t.anomalyCount = s.anomalyCount ∨ t.anomalyCount = s.anomalyCount + 1) ∧
    (s.spsBuf ≠ [] → t.spsBuf ≠ []) ∧ (s.ppsBuf ≠ [] → t.ppsBuf ≠ []) ∧
    (s.width ≠ 0 → t.width ≠ 0) ∧ (s.height ≠ 0 → t.height ≠ 0))

/-- 60_exceptions.md R130 with log 5 (the model's choice of what a step is when nothing is presented):
the block holds its state, and nothing is on its ports. -/
def Obligations.WithNothingPresentedTheBlockHoldsItsState : Prop :=
  ∀ s : State, s.input = [] → step s = .next { s with out := none, frameOut := none }

/-- 40_rtp_header.md R56, 00_scope.md R5: where a datagram that the interface admits is presented, a
step is `exec` of the instruction it decodes to, on the state with that datagram consumed. That a
datagram is presented at the head of a list is the model's choice (log 4). -/
def Obligations.StepRunsTheDecodedInstruction : Prop :=
  ∀ (s : State) (d : Bytes) (rest : List Input) (i : Instr),
    s.input = .datagram d :: rest → s.resetDone = true → d.length ≤ s.params.dgramMaxBytes →
    decode d = i → i.wellFormed = true →
    step s = exec i { s with input := rest }

/-- 30_encoding.md R39 to R48: presenting the encoding of a well-formed instruction runs that
instruction. The list of inputs is the model's choice (log 4). -/
def Obligations.PresentingAnEncodingRunsItsInstruction : Prop :=
  ∀ (s : State) (i : Instr) (rest : List Input),
    i.wellFormed = true → s.input = .datagram (encode i) :: rest → s.resetDone = true →
    (encode i).length ≤ s.params.dgramMaxBytes →
    step s = exec i { s with input := rest }

/-- 20_memory.md R28: every length from 0 to `DGRAM_MAX_BYTES` is accepted at the interface, a length
of 0 to 11 being rejected by the header parser, and a longer datagram is refused. -/
def Obligations.InterfaceAdmitsEveryLengthUpToTheBound : Prop :=
  ∀ (s : State) (d : Bytes) (rest : List Input),
    s.input = .datagram d :: rest → s.resetDone = true →
    if s.params.dgramMaxBytes < d.length then step s = .refused .datagramTooLong
    else ∃ t o, step s = .next t ∧ t.out = some o ∧
      (o.hdrStatus = .rejShort ↔ d.length ≤ 11)

/-- 70_reset_and_hazards.md R134, point 2, with log 8: there is no step for a datagram before the first
reset, whatever else the state is. -/
def Obligations.NoDatagramStepBeforeTheFirstReset : Prop :=
  ∀ (s : State) (d : Bytes) (rest : List Input),
    s.input = .datagram d :: rest → s.resetDone = false → step s = .refused .beforeReset

/-- 60_exceptions.md R116: no step faults; a datagram step that the interface admits completes with a
record and leaves a state from which further datagrams are processed; so does every instruction. -/
def Obligations.EveryStepCompletesWithARecord : Prop :=
  (∀ (s : State) (r : Fault), step s ≠ .fault r) ∧
  (∀ (i : Instr) (s : State), ∃ t o, exec i s = .next t ∧ t.out = some o ∧ SameSurround s t) ∧
  (∀ (s : State) (d : Bytes) (rest : List Input),
    s.input = .datagram d :: rest → s.resetDone = true → d.length ≤ s.params.dgramMaxBytes →
    ∃ t o, step s = .next t ∧ t.out = some o ∧ t.resetDone = true ∧ t.params = s.params ∧
      t.input = rest)

/-- 20_memory.md R36, "Datagrams are processed one at a time, in the order they are presented at
`rx`": a step consumes the first of the inputs still to come and no other. That inputs and parameters
are fields of the state is the model's choice (log 1, log 4). -/
def Obligations.InputsAreConsumedInOrderAndParametersKept : Prop :=
  ∀ s t : State, step s = .next t → t.input = s.input.tail ∧ t.params = s.params

/-! ## Decoding -/

/-- 30_encoding.md R39 to R48: decoding the encoding of a well-formed instruction gives it back, with
every operand at every value. -/
def Obligations.DecodingAnEncodingGivesTheInstruction : Prop :=
  ∀ i : Instr, i.wellFormed = true → decode (encode i) = i

/-- 30_encoding.md R39 to R48: every datagram decodes to a well-formed instruction, whose encoding is
the datagram: no bit is dropped. -/
def Obligations.EncodingADecodedDatagramGivesTheDatagram : Prop :=
  ∀ d : Bytes, (decode d).wellFormed = true ∧ encode (decode d) = d

/-- 30_encoding.md R47, R48: the table is total, and the decoder follows its first matching row. -/
def Obligations.DecoderFollowsTheFirstMatchingRow : Prop :=
  ∀ d : Bytes, ∃ r, opcodeTable.find? (rowMatches d) = some r ∧ (decode d).op = r.op

/-- The opcode table agrees with the header checks of 40_rtp_header.md R60 and the classifier of
30_encoding.md R46. The spec's own inference, in R47: "rule R46 and 40_rtp_header.md rule R56 are its
prose equivalent, and they agree with it row by row". -/
def Obligations.TableAgreesWithTheProse : Prop :=
  ∀ d : Bytes, (decode d).op = proseOp d

/-- 40_rtp_header.md R60, R62: the header checks decide the status in the order length, version,
payload type, and the record of an accepted datagram carries its header fields. -/
def Obligations.HeaderChecksDecideInOrder : Prop :=
  ∀ (s : State) (d : Bytes), ∃ t o, exec (decode d) s = .next t ∧ t.out = some o ∧
    (if d.length < 12 then o.hdrStatus = .rejShort
     else if (d.getD 0 0).extractLsb 7 6 ≠ 2 then o.hdrStatus = .rejVersion
     else if (d.getD 1 0).extractLsb 6 0 ≠ 96 then o.hdrStatus = .rejPt
     else
      o.hdrStatus = .accepted ∧
      o.v = (d.getD 0 0).extractLsb 7 6 ∧ o.p = (d.getD 0 0).extractLsb 5 5 ∧
      o.x = (d.getD 0 0).extractLsb 4 4 ∧ o.cc = (d.getD 0 0).extractLsb 3 0 ∧
      o.m = (d.getD 1 0).extractLsb 7 7 ∧ o.pt = (d.getD 1 0).extractLsb 6 0 ∧
      o.seq.toNat = (d.getD 2 0).toNat * 2 ^ 8 + (d.getD 3 0).toNat ∧
      o.ts.toNat = (d.getD 4 0).toNat * 2 ^ 24 + (d.getD 5 0).toNat * 2 ^ 16 +
        (d.getD 6 0).toNat * 2 ^ 8 + (d.getD 7 0).toNat ∧
      o.ssrc.toNat = (d.getD 8 0).toNat * 2 ^ 24 + (d.getD 9 0).toNat * 2 ^ 16 +
        (d.getD 10 0).toNat * 2 ^ 8 + (d.getD 11 0).toNat ∧
      o.payloadLen = d.length - 12)

/-- 30_encoding.md R46: the kind of an accepted datagram, from its length and the first bytes of its
payload. -/
def Obligations.PayloadKindFollowsItsFirstBytes : Prop :=
  ∀ (s : State) (d : Bytes), 12 ≤ d.length → (d.getD 0 0).extractLsb 7 6 = 2 →
    (d.getD 1 0).extractLsb 6 0 = 96 →
    ∃ t o, exec (decode d) s = .next t ∧ t.out = some o ∧
      o.kind =
        (if d.length = 12 then .unknown
         else if (d.getD 12 0).extractLsb 4 0 = 7 then .sps
         else if (d.getD 12 0).extractLsb 4 0 = 8 then .pps
         else if (d.getD 12 0).extractLsb 4 0 = 5 then .idr
         else if (d.getD 12 0).extractLsb 4 0 = 1 then .nonidr
         else if (d.getD 12 0).extractLsb 4 0 = 28 then
           if d.length < 14 then .unknown
           else if (d.getD 13 0).extractLsb 7 7 = 1 then .fuaStart
           else .fuaCont
         else .unknown)

/-- 95_test_vectors.md L2.1 (DEC4, DEC5, DEC11, DEC14, DEC22, DEC27): words written out from the
encoding decode to the instructions they stand for. -/
def Obligations.WrittenOutDatagramsDecode : Prop :=
  decode [0x80, 0x60, 0x00, 0x01, 0, 0, 0, 0, 0, 0, 0, 0, 0x41] =
    .nalNonidr 0 ⟨0, 0, 0, 1, 0, 0⟩ 2 [] ∧
  decode [0x80, 0x60, 0x00, 0x01, 0, 0, 0, 0, 0, 0, 0, 0, 0x65] =
    .nalIdr 0 ⟨0, 0, 0, 1, 0, 0⟩ 3 [] ∧
  decode [0x80, 0xE0, 0x00, 0x01, 0, 0, 0, 0, 0, 0, 0, 0, 0x7C, 0x85, 0xAA] =
    .fuaStart 1 ⟨0, 0, 0, 1, 0, 0⟩ 3 0 0 5 [0xAA] ∧
  decode [0x80, 0xE0, 0x00, 0x01, 0, 0, 0, 0, 0, 0, 0, 0, 0x7C, 0x05] =
    .fuaEnd ⟨0, 0, 0, 1, 0, 0⟩ 3 0 0 5 [] ∧
  decode [0x80, 0x61, 0x00, 0x01, 0, 0, 0, 0, 0, 0, 0, 0, 0x65] =
    .rejPt 0 97 ⟨0, 0, 0, 1, 0, 0⟩ [0x65] ∧
  decode [0xC0, 0x00, 0x00, 0x01, 0, 0, 0, 0, 0, 0, 0, 0, 0x65] =
    .rejVersion 3 0 0 ⟨0, 0, 0, 1, 0, 0⟩ [0x65]

/-- The start fragment a sender builds from a NAL header byte `h` (30_encoding.md R54) decodes to a
start fragment from whose bytes R45 reconstructs `h`. The spec's own inference, in R55: "the
reconstructed header of rule R45 equals `h`". -/
def Obligations.StartFragmentRebuildsTheSendersHeader : Prop :=
  ∀ (seq : U16) (m : BitVec 1) (h : Byte) (body : Bytes),
    decode (fus seq m h body) =
      .fuaStart m ⟨0, 0, 0, seq, 0, 0⟩ (h.extractLsb 7 5) 0 0 (h.extractLsb 4 0) body ∧
    recon ((fus seq m h body).getD 12 0) ((fus seq m h body).getD 13 0) = h

/-! ## Fields without effect -/

/-- 40_rtp_header.md R63, R64: `P`, `X`, `CC`, the timestamp and the SSRC change neither the operation,
nor any element of the state, nor an event flag (60_exceptions.md R120), nor the frame: two datagrams
that differ in those fields only have the same effect. -/
def Obligations.UninterpretedHeaderFieldsHaveNoEffect : Prop :=
  ∀ (s : State) (d d' : Bytes), d.length = d'.length →
    (d.getD 0 0).extractLsb 7 6 = (d'.getD 0 0).extractLsb 7 6 → d.getD 1 0 = d'.getD 1 0 →
    d.getD 2 0 = d'.getD 2 0 → d.getD 3 0 = d'.getD 3 0 → d.drop 12 = d'.drop 12 →
    ∃ t t' o o', exec (decode d) s = .next t ∧ exec (decode d') s = .next t' ∧
      t.out = some o ∧ t'.out = some o' ∧ SameElements t t' ∧ SameReport t t' ∧
      o'.seqAnomaly = o.seqAnomaly ∧ o'.seqExpectedValid = o.seqExpectedValid ∧
      o'.seqExpected = o.seqExpected

/-- 40_rtp_header.md R65: `M` has no effect on acceptance, on the tracker, or on any operation other
than the FU-A continuation: of two datagrams that differ in `M` only. -/
def Obligations.MarkerMattersToContinuationsOnly : Prop :=
  ∀ (s : State) (d d' : Bytes), d.length = d'.length → d.getD 0 0 = d'.getD 0 0 →
    (d.getD 1 0).extractLsb 6 0 = (d'.getD 1 0).extractLsb 6 0 → d.drop 2 = d'.drop 2 →
    ∃ t t' o o', exec (decode d) s = .next t ∧ exec (decode d') s = .next t' ∧
      t.out = some o ∧ t'.out = some o' ∧ o.hdrStatus = o'.hdrStatus ∧ o.kind = o'.kind ∧
      SameTracker t t' ∧ o.seqAnomaly = o'.seqAnomaly ∧
      (o.kind ≠ .fuaCont → SameElements t t' ∧ SameReport t t')

/-- 44_frame_boundary.md R112: a continuation is an end fragment if `M` is 1 and a middle fragment if
it is 0, whatever the FU header's end bit is, and neither the FU header's bits nor the FU indicator's
bits of a continuation have any effect (43_reassembler.md R100). -/
def Obligations.MarkerAloneEndsARunOfFragments : Prop :=
  (∀ d : Bytes, 14 ≤ d.length → (d.getD 0 0).extractLsb 7 6 = 2 →
    (d.getD 1 0).extractLsb 6 0 = 96 → (d.getD 12 0).extractLsb 4 0 = 28 →
    (d.getD 13 0).extractLsb 7 7 = 0 →
    (decode d).op = if (d.getD 1 0).extractLsb 7 7 = 1 then .fuaEnd else .fuaMid) ∧
  (∀ (s : State) (f : RtpFields) (ind ind' : BitVec 3) (e e' r r' : BitVec 1) (typ typ' : BitVec 5)
    (frag : Bytes),
    exec (.fuaMid f ind e r typ frag) s = exec (.fuaMid f ind' e' r' typ' frag) s ∧
    exec (.fuaEnd f ind e r typ frag) s = exec (.fuaEnd f ind' e' r' typ' frag) s)

/-! ## Rejected datagrams -/

/-- 40_rtp_header.md R57 to R59, R61, and the defaults of 60_exceptions.md R121: each of the three
rejections completes, changes no element, emits no frame, and puts a record on the port whose fields
are 0 but for the status and the state after the step. -/
def Obligations.RejectedDatagramsChangeNoElement : Prop :=
  ∀ s : State,
    let result (st : HdrStatus) : State :=
      { s with
        out := some
          { hdrStatus := st, kind := .none, action := .none, v := 0, p := 0, x := 0, cc := 0, m := 0,
            pt := 0, seq := 0, ts := 0, ssrc := 0, payloadLen := 0, seqExpectedValid := false,
            seqExpected := 0, seqAnomaly := false, resChange := false, auAbandoned := false,
            attemptedLen := 0, reStateAfter := s.reState, widthAfter := s.width,
            heightAfter := s.height, anomalyCountAfter := s.anomalyCount }
        frameOut := none }
    (∀ d, exec (.rejShort d) s = .next (result .rejShort)) ∧
    (∀ m pt f p, exec (.rejPt m pt f p) s = .next (result .rejPt)) ∧
    (∀ v m pt f p, exec (.rejVersion v m pt f p) s = .next (result .rejVersion))

/-! ## The sequence tracker -/

/-- 41_sequence_tracker.md R67, R68, R69, R70, R72: the tracker runs on every accepted datagram and on
no rejected one; its expectation, the anomaly, the recorded number and the count are as stated. -/
def Obligations.TrackerRunsOnEveryAcceptedDatagram : Prop :=
  ∀ (i : Instr) (s : State), ∃ t o, exec i s = .next t ∧ t.out = some o ∧
    match seqOf i with
    | none => SameTracker s t ∧ o.hdrStatus ≠ .accepted
    | some q => o.hdrStatus = .accepted ∧ Tracked s t q ∧
      match s.seqLast with
      | none => o.seqExpectedValid = false ∧ o.seqExpected = 0 ∧ o.seqAnomaly = false
      | some n => o.seqExpectedValid = true ∧ o.seqExpected = n + 1 ∧
        o.seqAnomaly = decide (q ≠ n + 1)

/-- 41_sequence_tracker.md R73, "All sequence arithmetic is modulo 65536", whose consequences the spec
marks as its own inference: after `n`, exactly the number `(n + 1) mod 65536` is in order, and each
packet out of order is one anomaly, counted modulo 2^32 (R72). -/
def Obligations.SequenceArithmeticWrapsAt65536 : Prop :=
  ∀ (i : Instr) (s : State) (q n : U16), seqOf i = some q → s.seqLast = some n →
    ∃ t o, exec i s = .next t ∧ t.out = some o ∧ t.seqLast = some q ∧
      (o.seqAnomaly = false ↔ q.toNat = (n.toNat + 1) % 65536) ∧
      t.anomalyCount.toNat =
        (s.anomalyCount.toNat + if o.seqAnomaly then 1 else 0) % 2 ^ 32

/-- 41_sequence_tracker.md R71: a sequence anomaly has no effect on the reassembler, the caches, the
dimensions or the emission: two states that differ in the tracker's elements only take a datagram to
the same of all of these. -/
def Obligations.AnomaliesDoNotReachTheReassembler : Prop :=
  ∀ (i : Instr) (s : State) (last : Option U16) (count : U32),
    ∃ t t', exec i s = .next t ∧
      exec i { s with seqLast := last, anomalyCount := count } = .next t' ∧
      SameReassembler t t' ∧ SameCache t t' ∧ SameReport t t'

/-! ## The parameter-set cache -/

/-- 42_parameter_sets.md R79, R81: an SPS of at most `SPS_MAX_BYTES` replaces the cached one, and the
dimensions follow the oracle's answer when both parts are non-zero and the pair is new; a longer one
is dropped. -/
def Obligations.SpsReplacesTheCacheAndUpdatesTheDimensions : Prop :=
  ∀ (m : BitVec 1) (f : RtpFields) (nri : BitVec 3) (body : Bytes) (s : State),
    let p : Bytes := (nri ++ 7#5 : Byte) :: body
    let w := (spsParse s p).1
    let h := (spsParse s p).2
    ∃ t, exec (.nalSps m f nri body) s = .next t ∧ t.frameOut = none ∧
      Tracked s t f.seq ∧ SameReassembler s t ∧ SameSurround s t ∧ t.ppsBuf = s.ppsBuf ∧
      if s.params.spsMaxBytes < p.length then
        SameCache s t ∧ Reports t ⟨.accepted, .sps, .psDropped, false, false, p.length⟩
      else
        t.spsBuf = p ∧
        if w ≠ 0 ∧ h ≠ 0 ∧ (w ≠ s.width ∨ h ≠ s.height) then
          t.width = w ∧ t.height = h ∧ Reports t ⟨.accepted, .sps, .cachedSps, true, false, 0⟩
        else
          t.width = s.width ∧ t.height = s.height ∧
            Reports t ⟨.accepted, .sps, .cachedSps, false, false, 0⟩

/-- 42_parameter_sets.md R84: a PPS of at most `PPS_MAX_BYTES` replaces the cached one; a longer one is
dropped; nothing else of the cache and no dimension changes. -/
def Obligations.PpsReplacesTheCache : Prop :=
  ∀ (m : BitVec 1) (f : RtpFields) (nri : BitVec 3) (body : Bytes) (s : State),
    let p : Bytes := (nri ++ 8#5 : Byte) :: body
    ∃ t, exec (.nalPps m f nri body) s = .next t ∧ t.frameOut = none ∧
      Tracked s t f.seq ∧ SameReassembler s t ∧ SameSurround s t ∧ t.spsBuf = s.spsBuf ∧
      t.width = s.width ∧ t.height = s.height ∧
      if s.params.ppsMaxBytes < p.length then
        t.ppsBuf = s.ppsBuf ∧ Reports t ⟨.accepted, .pps, .psDropped, false, false, p.length⟩
      else
        t.ppsBuf = p ∧ Reports t ⟨.accepted, .pps, .cachedPps, false, false, 0⟩

/-- 42_parameter_sets.md R82: a parameter set longer than its bound leaves the cache and the dimensions
and reports `PS_OVERFLOW` with its length, whatever the oracle would answer; one exactly as long as its
bound is cached. -/
def Obligations.ParameterSetsBeyondTheirBoundAreDropped : Prop :=
  ∀ (m : BitVec 1) (f : RtpFields) (nri : BitVec 3) (body : Bytes) (s : State),
    (s.params.spsMaxBytes < body.length + 1 →
      ∃ t, exec (.nalSps m f nri body) s = .next t ∧ SameCache s t ∧
        Reports t ⟨.accepted, .sps, .psDropped, false, false, body.length + 1⟩) ∧
    (body.length + 1 = s.params.spsMaxBytes →
      ∃ t, exec (.nalSps m f nri body) s = .next t ∧ t.spsBuf = (nri ++ 7#5 : Byte) :: body) ∧
    (s.params.ppsMaxBytes < body.length + 1 →
      ∃ t, exec (.nalPps m f nri body) s = .next t ∧ SameCache s t ∧
        Reports t ⟨.accepted, .pps, .psDropped, false, false, body.length + 1⟩) ∧
    (body.length + 1 = s.params.ppsMaxBytes →
      ∃ t, exec (.nalPps m f nri body) s = .next t ∧ t.ppsBuf = (nri ++ 8#5 : Byte) :: body)

/-- 42_parameter_sets.md R80, "The oracle is not consulted for a PPS, for an SPS that overflows (rule
R82), or for any other operation": for every other datagram the answers it would give make no
difference at all. That answers may be pinned in the parameters is the model's choice (log 2). -/
def Obligations.OracleIsConsultedByAFittingSpsOnly : Prop :=
  ∀ (i : Instr) (s : State) (a : List (Bytes × (Nat × Nat))),
    (∀ m f nri body, i = .nalSps m f nri body → s.params.spsMaxBytes < body.length + 1) →
    ∃ t, exec i s = .next t ∧
      exec i { s with params := { s.params with spsAnswers := a } } =
        .next { t with params := { t.params with spsAnswers := a } }

/-- 42_parameter_sets.md R86: no access unit, emission, overflow or orphan discard, and no rejected
datagram, touches the cache or the dimensions: only an SPS and a PPS do. -/
def Obligations.ParameterSetStatePersists : Prop :=
  ∀ (i : Instr) (s : State), i.op ≠ .nalSps → i.op ≠ .nalPps →
    ∃ t, exec i s = .next t ∧ SameCache s t

/-! ## The reassembler -/

/-- 43_reassembler.md R92, R94: an IDR slice completes an access unit of the cached SPS, the cached PPS
and the slice, each behind a start code. -/
def Obligations.IdrSliceCompletesAnAccessUnit : Prop :=
  ∀ (m : BitVec 1) (f : RtpFields) (nri : BitVec 3) (body : Bytes) (s : State),
    ∃ t, exec (.nalIdr m f nri body) s = .next t ∧
      Tracked s t f.seq ∧ SameCache s t ∧ SameSurround s t ∧
      HandedOver s t .idr (decide (s.reState = .accumulating))
        ([0x00, 0x00, 0x01] ++ s.spsBuf ++ [0x00, 0x00, 0x01] ++ s.ppsBuf ++ [0x00, 0x00, 0x01] ++
          (nri ++ 5#5 : Byte) :: body)

/-- 43_reassembler.md R93: a non-IDR slice completes an access unit of the slice behind a start code. -/
def Obligations.NonIdrSliceCompletesAnAccessUnit : Prop :=
  ∀ (m : BitVec 1) (f : RtpFields) (nri : BitVec 3) (body : Bytes) (s : State),
    ∃ t, exec (.nalNonidr m f nri body) s = .next t ∧
      Tracked s t f.seq ∧ SameCache s t ∧ SameSurround s t ∧
      HandedOver s t .nonidr (decide (s.reState = .accumulating))
        ([0x00, 0x00, 0x01] ++ (nri ++ 1#5 : Byte) :: body)

/-- 43_reassembler.md R95, R99; 30_encoding.md R45: a start fragment of any type begins an access unit
with a start code and the reconstructed header, behind the parameter-set prefix for type 5 alone,
whatever `M` and `E` are (44_frame_boundary.md R113). -/
def Obligations.StartFragmentBeginsAnAccessUnit : Prop :=
  ∀ (m : BitVec 1) (f : RtpFields) (ind : BitVec 3) (e r : BitVec 1) (typ : BitVec 5) (frag : Bytes)
    (s : State),
    ∃ t, exec (.fuaStart m f ind e r typ frag) s = .next t ∧
      Tracked s t f.seq ∧ SameCache s t ∧ SameSurround s t ∧
      Held s t .fuaStart .auStarted (decide (s.reState = .accumulating))
        ((if typ = 5 then [0x00, 0x00, 0x01] ++ s.spsBuf ++ [0x00, 0x00, 0x01] ++ s.ppsBuf else []) ++
          [0x00, 0x00, 0x01] ++ (ind ++ typ : Byte) :: frag)

/-- 43_reassembler.md R96: a middle fragment appends its bytes to the access unit in progress, and is an
orphan in `Idle`. -/
def Obligations.MiddleFragmentAppendsItsBytes : Prop :=
  ∀ (f : RtpFields) (ind : BitVec 3) (e r : BitVec 1) (typ : BitVec 5) (frag : Bytes) (s : State),
    ∃ t, exec (.fuaMid f ind e r typ frag) s = .next t ∧
      Tracked s t f.seq ∧ SameCache s t ∧ SameSurround s t ∧
      match s.reState with
      | .accumulating => Held s t .fuaCont .auAppended false (s.auBuf ++ frag)
      | .idle => SameReassembler s t ∧ t.frameOut = none ∧
        Reports t ⟨.accepted, .fuaCont, .orphanDropped, false, false, 0⟩

/-- 43_reassembler.md R97: an end fragment appends its bytes and completes the access unit in progress,
and is an orphan in `Idle`. -/
def Obligations.EndFragmentCompletesTheAccessUnit : Prop :=
  ∀ (f : RtpFields) (ind : BitVec 3) (e r : BitVec 1) (typ : BitVec 5) (frag : Bytes) (s : State),
    ∃ t, exec (.fuaEnd f ind e r typ frag) s = .next t ∧
      Tracked s t f.seq ∧ SameCache s t ∧ SameSurround s t ∧
      match s.reState with
      | .accumulating => HandedOver s t .fuaCont false (s.auBuf ++ frag)
      | .idle => SameReassembler s t ∧ t.frameOut = none ∧
        Reports t ⟨.accepted, .fuaCont, .orphanDropped, false, false, 0⟩

/-- 43_reassembler.md R98: a continuation that arrives in `Idle` is discarded: no reassembler, cache or
dimension element is written, and nothing is completed, whether `M` is 0 or 1. -/
def Obligations.OrphanContinuationsAreDiscarded : Prop :=
  ∀ (i : Instr) (s : State), i.op = .fuaMid ∨ i.op = .fuaEnd → s.reState = .idle →
    ∃ t, exec i s = .next t ∧ SameReassembler s t ∧ SameCache s t ∧ t.frameOut = none ∧
      Reports t ⟨.accepted, .fuaCont, .orphanDropped, false, false, 0⟩

/-- 43_reassembler.md R102, R103: for every instruction that writes the buffer, a write to more than
`AU_MAX_BYTES` discards the access unit and reports the length attempted, and a write to at most
`AU_MAX_BYTES` is no overflow. -/
def Obligations.OverflowDiscardsTheAccessUnit : Prop :=
  ∀ (i : Instr) (s : State) (v : Bytes), auWrite i s = some v →
    ∃ t o, exec i s = .next t ∧ t.out = some o ∧
      if s.params.auMaxBytes < v.length then
        t.reState = .idle ∧ t.auBuf = [] ∧ t.frameOut = none ∧ o.action = .auOverflow ∧
          o.attemptedLen = v.length
      else o.action ≠ .auOverflow ∧ o.attemptedLen = 0

/-- 43_reassembler.md R104: an unknown payload is ignored: no element of the reassembler or the cache is
written; the tracker has run. -/
def Obligations.UnknownPayloadsAreIgnored : Prop :=
  ∀ (m : BitVec 1) (f : RtpFields) (p : Bytes) (s : State),
    ∃ t, exec (.nalUnknown m f p) s = .next t ∧
      Tracked s t f.seq ∧ SameReassembler s t ∧ SameCache s t ∧ SameSurround s t ∧
      t.frameOut = none ∧ Reports t ⟨.accepted, .unknown, .ignored, false, false, 0⟩

/-- 43_reassembler.md R90: the event `AU_ABANDONED` is reported by exactly the operations that begin an
access unit while one is in progress, and the bytes of the old one go nowhere: what such an operation
does does not depend on them. -/
def Obligations.NewAccessUnitsAbandonTheOldOne : Prop :=
  ∀ (i : Instr) (s : State),
    (∃ t o, exec i s = .next t ∧ t.out = some o ∧
      (o.auAbandoned = true ↔ begins i.op = true ∧ s.reState = .accumulating)) ∧
    (begins i.op = true → ∀ b, exec i { s with auBuf := b } = exec i s)

/-- 43_reassembler.md R87: the two-state machine: where each operation leaves `re_state`. -/
def Obligations.ReassemblerFollowsItsTransitionTable : Prop :=
  ∀ (i : Instr) (s : State), ∃ t, exec i s = .next t ∧
    t.reState =
      match auWrite i s with
      | none => s.reState
      | some v =>
        if s.params.auMaxBytes < v.length then .idle
        else if completes i.op then .idle else .accumulating

/-- The spec's own inference, the reassembly law of 43_reassembler.md R105 ("Take a NAL unit `h ⧺ b`"):
a NAL unit split into a start fragment, middle fragments and an end fragment, with SPS, PPS and unknown
payloads in between, is put together again. If it fits, the access unit completed is the prefix (for
type 5, as the caches were at the start), a start code, `h` and `b`; it is emitted if the dimensions
are known at the end. -/
def Obligations.FragmentsReassembleTheNalUnit : Prop :=
  ∀ (s : State) (h : Byte) (m : BitVec 1) (seq seq' : U16) (b1 b bk : Bytes) (mids : List Bytes)
    (rest : List Input),
    s.resetDone = true →
    s.input =
      .datagram (fus seq m h b1) ::
        (mids.map Input.datagram ++ .datagram (fue seq' h bk) :: rest) →
    fragmentsBetween mids = some b →
    b1.length + 14 ≤ s.params.dgramMaxBytes →
    (∀ d ∈ mids, d.length ≤ s.params.dgramMaxBytes) →
    bk.length + 14 ≤ s.params.dgramMaxBytes →
    let v : Bytes := (if h.extractLsb 4 0 = 5 then cachedPrefix s else []) ++ [0x00, 0x00, 0x01] ++
      h :: (b1 ++ b ++ bk)
    v.length ≤ s.params.auMaxBytes →
    ∃ t, Host.Core.run Sys2Proof.core (mids.length + 2) s = .next t ∧
      t.reState = .idle ∧ t.auBuf = [] ∧ t.input = rest ∧
      t.frameOut =
        if t.width = 0 ∨ t.height = 0 then none
        else some ⟨t.width, t.height, s.params.fourcc, v.length, v⟩

/-! ## The frame boundary -/

/-- 44_frame_boundary.md R109: a complete access unit, IDR or not, is emitted if both dimensions are
above 0 at the start of the step and dropped otherwise; no other step emits. -/
def Obligations.EmissionNeedsKnownDimensions : Prop :=
  ∀ (i : Instr) (s : State), ∃ t o, exec i s = .next t ∧ t.out = some o ∧
    (∀ fr, t.frameOut = some fr → 0 < s.width ∧ 0 < s.height) ∧
    (∀ v, completes i.op = true → auWrite i s = some v → v.length ≤ s.params.auMaxBytes →
      if 0 < s.width ∧ 0 < s.height then
        t.frameOut = some ⟨s.width, s.height, s.params.fourcc, v.length, v⟩ ∧ o.action = .emitted
      else t.frameOut = none ∧ o.action = .auDroppedNoRes)

/-- 44_frame_boundary.md R106, R107: an access unit is complete (emitted, or dropped for want of
dimensions) exactly in the steps of an IDR slice, a non-IDR slice, and an end fragment while one is in
progress, where the write fits; a frame leaves the block in no other step. -/
def Obligations.AccessUnitsCompleteInThreeCasesOnly : Prop :=
  ∀ (i : Instr) (s : State), ∃ t o, exec i s = .next t ∧ t.out = some o ∧
    ((o.action = .emitted ∨ o.action = .auDroppedNoRes) ↔
      completes i.op = true ∧ ∃ v, auWrite i s = some v ∧ v.length ≤ s.params.auMaxBytes) ∧
    (t.frameOut.isSome ↔ o.action = .emitted)

/-- 44_frame_boundary.md R110: an emitted frame carries the stored dimensions, the `fourcc`, its size
and its bytes, which are all those of the complete access unit. The spec's own inference there:
"`data` always begins with `00 00 01` and is never empty: its length is at least 4". -/
def Obligations.EmittedFramesAreWholeAccessUnits : Prop :=
  ∀ (i : Instr) (s : State), RunInv s →
    ∃ t, exec i s = .next t ∧ ∀ fr, t.frameOut = some fr →
      fr.width = s.width ∧ fr.height = s.height ∧ fr.fourcc = s.params.fourcc ∧
      auWrite i s = some fr.data ∧ fr.size = fr.data.length ∧
      fr.data.take 3 = [0x00, 0x00, 0x01] ∧ 4 ≤ fr.data.length ∧
      fr.data.length ≤ s.params.auMaxBytes

/-- The spec's own inference, in 43_reassembler.md R94: "So the only emitted case with an empty cache is
an empty `pps_buf`": no frame is emitted while no SPS is cached. -/
def Obligations.FramesAreEmittedOnlyWithACachedSps : Prop :=
  ∀ (i : Instr) (s : State), RunInv s →
    ∃ t, exec i s = .next t ∧ (t.frameOut ≠ none → s.spsBuf ≠ [])

/-- 44_frame_boundary.md R115, 10_state.md R16: what stood on the ports, taken or not, has no effect on
what the block does next. -/
def Obligations.PortsDoNotFeedBack : Prop :=
  ∀ (i : Instr) (s : State) (o : Option Out) (fr : Option Frame),
    exec i { s with out := o, frameOut := fr } = exec i s

/-! ## The output record -/

/-- 60_exceptions.md R121: the last four fields of every record show the state after the step, and the
fields that belong to an accepted datagram are 0 in the record of a rejected one. -/
def Obligations.RecordShowsTheStateAfterTheStep : Prop :=
  ∀ (i : Instr) (s : State), ∃ t o, exec i s = .next t ∧ t.out = some o ∧
    o.reStateAfter = t.reState ∧ o.widthAfter = t.width ∧ o.heightAfter = t.height ∧
    o.anomalyCountAfter = t.anomalyCount ∧
    o.hdrStatus = i.op.hdrStatus ∧ o.kind = i.op.kind ∧
    (o.hdrStatus ≠ .accepted →
      o.v = 0 ∧ o.p = 0 ∧ o.x = 0 ∧ o.cc = 0 ∧ o.m = 0 ∧ o.pt = 0 ∧ o.seq = 0 ∧ o.ts = 0 ∧
        o.ssrc = 0 ∧ o.payloadLen = 0 ∧ o.seqExpectedValid = false ∧ o.seqExpected = 0 ∧
        o.seqAnomaly = false)

/-- 60_exceptions.md R122: which event flags may stand beside which action (the spec's own inference:
"Flags that may be set together with it"), and that an overflow of an operation that abandons reports
both. -/
def Obligations.EventsOfAStepCoOccurAsStated : Prop :=
  ∀ (i : Instr) (s : State), ∃ t o, exec i s = .next t ∧ t.out = some o ∧
    (o.seqAnomaly = true → o.action ≠ .none) ∧
    (o.resChange = true → o.action = .cachedSps) ∧
    (o.auAbandoned = true →
      o.action ∈ [.auStarted, .emitted, .auDroppedNoRes, .auOverflow] ∧
        o.kind ∈ [.idr, .nonidr, .fuaStart]) ∧
    (∀ v, begins i.op = true → s.reState = .accumulating → auWrite i s = some v →
      s.params.auMaxBytes < v.length → o.auAbandoned = true ∧ o.action = .auOverflow) ∧
    (o.attemptedLen ≠ 0 → o.action = .psDropped ∨ o.action = .auOverflow)

/-- 60_exceptions.md R117 to R119, 10_state.md R18: the codes of the tables, of which the action codes
11 to 15 are never produced. -/
def Obligations.CodesAreThoseOfTheTables : Prop :=
  [HdrStatus.accepted, .rejShort, .rejVersion, .rejPt].map hdrStatusCode = [0, 1, 2, 3] ∧
    [Kind.none, .sps, .pps, .idr, .nonidr, .fuaStart, .fuaCont, .unknown].map kindCode =
      [0, 1, 2, 3, 4, 5, 6, 7] ∧
    [Action.none, .ignored, .cachedSps, .cachedPps, .psDropped, .auStarted, .auAppended, .emitted,
      .auDroppedNoRes, .orphanDropped, .auOverflow].map actionCode =
      [0, 1, 2, 3, 4, 5, 6, 7, 8, 9, 10] ∧
    (∀ a, actionCode a ≤ 10) ∧
    [ReState.idle, .accumulating].map reStateCode = [0, 1]

/-! ## The invariant -/

/-- Every step keeps the invariant, from every state that has it: 10_state.md R24, and the spec's own
inferences in 10_state.md R25 ("`re_state = Accumulating` implies `4 ≤ len(au_buf) ≤ AU_MAX_BYTES`, and
`au_buf` begins with `00 00 01`") and 43_reassembler.md R94 ("An empty `sps_buf` implies `width =
height = 0`"); that the dimensions are numbers below `2^DIM_BITS` is the model's form (log 3). -/
def Obligations.EveryStepKeepsTheInvariant : Prop :=
  ∀ s t : State, RunInv s → step s = .next t → RunInv t

/-- 10_state.md R24: the invariant holds after reset, whatever the parameters are. -/
def Obligations.InvariantHoldsAfterReset : Prop := RunInv State.reset
end

