-- ==== Sys2Proof/Laws/State.lean ====
section
/-! SUPPORT. One lemma for each field of the state under each named update of it. -/

namespace Sys2Proof.Machine

variable (s : State)

/-! ### `auReplace` -/

@[simp] theorem auReplace_seqLast (v : Bytes) : (auReplace s v).seqLast = s.seqLast := rfl
@[simp] theorem auReplace_reState (v : Bytes) : (auReplace s v).reState = .accumulating := rfl
@[simp] theorem auReplace_auBuf (v : Bytes) : (auReplace s v).auBuf = v := rfl
@[simp] theorem auReplace_spsBuf (v : Bytes) : (auReplace s v).spsBuf = s.spsBuf := rfl
@[simp] theorem auReplace_ppsBuf (v : Bytes) : (auReplace s v).ppsBuf = s.ppsBuf := rfl
@[simp] theorem auReplace_width (v : Bytes) : (auReplace s v).width = s.width := rfl
@[simp] theorem auReplace_height (v : Bytes) : (auReplace s v).height = s.height := rfl
@[simp] theorem auReplace_anomalyCount (v : Bytes) :
    (auReplace s v).anomalyCount = s.anomalyCount := rfl
@[simp] theorem auReplace_params (v : Bytes) : (auReplace s v).params = s.params := rfl
@[simp] theorem auReplace_input (v : Bytes) : (auReplace s v).input = s.input := rfl
@[simp] theorem auReplace_resetDone (v : Bytes) : (auReplace s v).resetDone = s.resetDone := rfl
@[simp] theorem auReplace_out (v : Bytes) : (auReplace s v).out = s.out := rfl
@[simp] theorem auReplace_frameOut (v : Bytes) : (auReplace s v).frameOut = s.frameOut := rfl

/-! ### `auClear` -/

@[simp] theorem auClear_seqLast : (auClear s).seqLast = s.seqLast := rfl
@[simp] theorem auClear_reState : (auClear s).reState = .idle := rfl
@[simp] theorem auClear_auBuf : (auClear s).auBuf = [] := rfl
@[simp] theorem auClear_spsBuf : (auClear s).spsBuf = s.spsBuf := rfl
@[simp] theorem auClear_ppsBuf : (auClear s).ppsBuf = s.ppsBuf := rfl
@[simp] theorem auClear_width : (auClear s).width = s.width := rfl
@[simp] theorem auClear_height : (auClear s).height = s.height := rfl
@[simp] theorem auClear_anomalyCount : (auClear s).anomalyCount = s.anomalyCount := rfl
@[simp] theorem auClear_params : (auClear s).params = s.params := rfl
@[simp] theorem auClear_input : (auClear s).input = s.input := rfl
@[simp] theorem auClear_resetDone : (auClear s).resetDone = s.resetDone := rfl
@[simp] theorem auClear_out : (auClear s).out = s.out := rfl
@[simp] theorem auClear_frameOut : (auClear s).frameOut = s.frameOut := rfl

/-! ### `spsReplace` -/

@[simp] theorem spsReplace_seqLast (p : Bytes) : (spsReplace s p).seqLast = s.seqLast := rfl
@[simp] theorem spsReplace_reState (p : Bytes) : (spsReplace s p).reState = s.reState := rfl
@[simp] theorem spsReplace_auBuf (p : Bytes) : (spsReplace s p).auBuf = s.auBuf := rfl
@[simp] theorem spsReplace_spsBuf (p : Bytes) : (spsReplace s p).spsBuf = p := rfl
@[simp] theorem spsReplace_ppsBuf (p : Bytes) : (spsReplace s p).ppsBuf = s.ppsBuf := rfl
@[simp] theorem spsReplace_width (p : Bytes) : (spsReplace s p).width = s.width := rfl
@[simp] theorem spsReplace_height (p : Bytes) : (spsReplace s p).height = s.height := rfl
@[simp] theorem spsReplace_anomalyCount (p : Bytes) :
    (spsReplace s p).anomalyCount = s.anomalyCount := rfl
@[simp] theorem spsReplace_params (p : Bytes) : (spsReplace s p).params = s.params := rfl
@[simp] theorem spsReplace_input (p : Bytes) : (spsReplace s p).input = s.input := rfl
@[simp] theorem spsReplace_resetDone (p : Bytes) : (spsReplace s p).resetDone = s.resetDone := rfl
@[simp] theorem spsReplace_out (p : Bytes) : (spsReplace s p).out = s.out := rfl
@[simp] theorem spsReplace_frameOut (p : Bytes) : (spsReplace s p).frameOut = s.frameOut := rfl

/-! ### `ppsReplace` -/

@[simp] theorem ppsReplace_seqLast (p : Bytes) : (ppsReplace s p).seqLast = s.seqLast := rfl
@[simp] theorem ppsReplace_reState (p : Bytes) : (ppsReplace s p).reState = s.reState := rfl
@[simp] theorem ppsReplace_auBuf (p : Bytes) : (ppsReplace s p).auBuf = s.auBuf := rfl
@[simp] theorem ppsReplace_spsBuf (p : Bytes) : (ppsReplace s p).spsBuf = s.spsBuf := rfl
@[simp] theorem ppsReplace_ppsBuf (p : Bytes) : (ppsReplace s p).ppsBuf = p := rfl
@[simp] theorem ppsReplace_width (p : Bytes) : (ppsReplace s p).width = s.width := rfl
@[simp] theorem ppsReplace_height (p : Bytes) : (ppsReplace s p).height = s.height := rfl
@[simp] theorem ppsReplace_anomalyCount (p : Bytes) :
    (ppsReplace s p).anomalyCount = s.anomalyCount := rfl
@[simp] theorem ppsReplace_params (p : Bytes) : (ppsReplace s p).params = s.params := rfl
@[simp] theorem ppsReplace_input (p : Bytes) : (ppsReplace s p).input = s.input := rfl
@[simp] theorem ppsReplace_resetDone (p : Bytes) : (ppsReplace s p).resetDone = s.resetDone := rfl
@[simp] theorem ppsReplace_out (p : Bytes) : (ppsReplace s p).out = s.out := rfl
@[simp] theorem ppsReplace_frameOut (p : Bytes) : (ppsReplace s p).frameOut = s.frameOut := rfl

/-! ### `dimsReplace` -/

@[simp] theorem dimsReplace_seqLast (w h : Nat) : (dimsReplace s w h).seqLast = s.seqLast := rfl
@[simp] theorem dimsReplace_reState (w h : Nat) : (dimsReplace s w h).reState = s.reState := rfl
@[simp] theorem dimsReplace_auBuf (w h : Nat) : (dimsReplace s w h).auBuf = s.auBuf := rfl
@[simp] theorem dimsReplace_spsBuf (w h : Nat) : (dimsReplace s w h).spsBuf = s.spsBuf := rfl
@[simp] theorem dimsReplace_ppsBuf (w h : Nat) : (dimsReplace s w h).ppsBuf = s.ppsBuf := rfl
@[simp] theorem dimsReplace_width (w h : Nat) : (dimsReplace s w h).width = w := rfl
@[simp] theorem dimsReplace_height (w h : Nat) : (dimsReplace s w h).height = h := rfl
@[simp] theorem dimsReplace_anomalyCount (w h : Nat) :
    (dimsReplace s w h).anomalyCount = s.anomalyCount := rfl
@[simp] theorem dimsReplace_params (w h : Nat) : (dimsReplace s w h).params = s.params := rfl
@[simp] theorem dimsReplace_input (w h : Nat) : (dimsReplace s w h).input = s.input := rfl
@[simp] theorem dimsReplace_resetDone (w h : Nat) :
    (dimsReplace s w h).resetDone = s.resetDone := rfl
@[simp] theorem dimsReplace_out (w h : Nat) : (dimsReplace s w h).out = s.out := rfl
@[simp] theorem dimsReplace_frameOut (w h : Nat) : (dimsReplace s w h).frameOut = s.frameOut := rfl

/-! ### `seqTrack` -/

@[simp] theorem seqTrack_seqLast (q : U16) : (seqTrack s q).seqLast = some q := rfl
@[simp] theorem seqTrack_reState (q : U16) : (seqTrack s q).reState = s.reState := rfl
@[simp] theorem seqTrack_auBuf (q : U16) : (seqTrack s q).auBuf = s.auBuf := rfl
@[simp] theorem seqTrack_spsBuf (q : U16) : (seqTrack s q).spsBuf = s.spsBuf := rfl
@[simp] theorem seqTrack_ppsBuf (q : U16) : (seqTrack s q).ppsBuf = s.ppsBuf := rfl
@[simp] theorem seqTrack_width (q : U16) : (seqTrack s q).width = s.width := rfl
@[simp] theorem seqTrack_height (q : U16) : (seqTrack s q).height = s.height := rfl
@[simp] theorem seqTrack_anomalyCount (q : U16) :
    (seqTrack s q).anomalyCount = if seqAnomaly s q then s.anomalyCount + 1 else s.anomalyCount := rfl
@[simp] theorem seqTrack_params (q : U16) : (seqTrack s q).params = s.params := rfl
@[simp] theorem seqTrack_input (q : U16) : (seqTrack s q).input = s.input := rfl
@[simp] theorem seqTrack_resetDone (q : U16) : (seqTrack s q).resetDone = s.resetDone := rfl
@[simp] theorem seqTrack_out (q : U16) : (seqTrack s q).out = s.out := rfl
@[simp] theorem seqTrack_frameOut (q : U16) : (seqTrack s q).frameOut = s.frameOut := rfl

/-! ### `publish` -/

@[simp] theorem publish_seqLast (o : Out) (fr : Option Frame) :
    (publish s o fr).seqLast = s.seqLast := rfl
@[simp] theorem publish_reState (o : Out) (fr : Option Frame) :
    (publish s o fr).reState = s.reState := rfl
@[simp] theorem publish_auBuf (o : Out) (fr : Option Frame) :
    (publish s o fr).auBuf = s.auBuf := rfl
@[simp] theorem publish_spsBuf (o : Out) (fr : Option Frame) :
    (publish s o fr).spsBuf = s.spsBuf := rfl
@[simp] theorem publish_ppsBuf (o : Out) (fr : Option Frame) :
    (publish s o fr).ppsBuf = s.ppsBuf := rfl
@[simp] theorem publish_width (o : Out) (fr : Option Frame) :
    (publish s o fr).width = s.width := rfl
@[simp] theorem publish_height (o : Out) (fr : Option Frame) :
    (publish s o fr).height = s.height := rfl
@[simp] theorem publish_anomalyCount (o : Out) (fr : Option Frame) :
    (publish s o fr).anomalyCount = s.anomalyCount := rfl
@[simp] theorem publish_params (o : Out) (fr : Option Frame) :
    (publish s o fr).params = s.params := rfl
@[simp] theorem publish_input (o : Out) (fr : Option Frame) :
    (publish s o fr).input = s.input := rfl
@[simp] theorem publish_resetDone (o : Out) (fr : Option Frame) :
    (publish s o fr).resetDone = s.resetDone := rfl
@[simp] theorem publish_out (o : Out) (fr : Option Frame) :
    (publish s o fr).out = some { o with
      reStateAfter := s.reState
      widthAfter := s.width
      heightAfter := s.height
      anomalyCountAfter := s.anomalyCount } := rfl
@[simp] theorem publish_frameOut (o : Out) (fr : Option Frame) :
    (publish s o fr).frameOut = fr := rfl

/-! ### `quiet` -/

@[simp] theorem quiet_seqLast : (quiet s).seqLast = s.seqLast := rfl
@[simp] theorem quiet_reState : (quiet s).reState = s.reState := rfl
@[simp] theorem quiet_auBuf : (quiet s).auBuf = s.auBuf := rfl
@[simp] theorem quiet_spsBuf : (quiet s).spsBuf = s.spsBuf := rfl
@[simp] theorem quiet_ppsBuf : (quiet s).ppsBuf = s.ppsBuf := rfl
@[simp] theorem quiet_width : (quiet s).width = s.width := rfl
@[simp] theorem quiet_height : (quiet s).height = s.height := rfl
@[simp] theorem quiet_anomalyCount : (quiet s).anomalyCount = s.anomalyCount := rfl
@[simp] theorem quiet_params : (quiet s).params = s.params := rfl
@[simp] theorem quiet_input : (quiet s).input = s.input := rfl
@[simp] theorem quiet_resetDone : (quiet s).resetDone = s.resetDone := rfl
@[simp] theorem quiet_out : (quiet s).out = none := rfl
@[simp] theorem quiet_frameOut : (quiet s).frameOut = none := rfl

/-! ### `applyReset` -/

@[simp] theorem applyReset_seqLast : (applyReset s).seqLast = none := rfl
@[simp] theorem applyReset_reState : (applyReset s).reState = .idle := rfl
@[simp] theorem applyReset_auBuf : (applyReset s).auBuf = [] := rfl
@[simp] theorem applyReset_spsBuf : (applyReset s).spsBuf = [] := rfl
@[simp] theorem applyReset_ppsBuf : (applyReset s).ppsBuf = [] := rfl
@[simp] theorem applyReset_width : (applyReset s).width = 0 := rfl
@[simp] theorem applyReset_height : (applyReset s).height = 0 := rfl
@[simp] theorem applyReset_anomalyCount : (applyReset s).anomalyCount = 0 := rfl
@[simp] theorem applyReset_params : (applyReset s).params = s.params := rfl
@[simp] theorem applyReset_input : (applyReset s).input = s.input := rfl
@[simp] theorem applyReset_resetDone : (applyReset s).resetDone = true := rfl
@[simp] theorem applyReset_out : (applyReset s).out = none := rfl
@[simp] theorem applyReset_frameOut : (applyReset s).frameOut = none := rfl

/-! ### `reject` -/

@[simp] theorem reject_seqLast (st : HdrStatus) : (reject s st).seqLast = s.seqLast := rfl
@[simp] theorem reject_reState (st : HdrStatus) : (reject s st).reState = s.reState := rfl
@[simp] theorem reject_auBuf (st : HdrStatus) : (reject s st).auBuf = s.auBuf := rfl
@[simp] theorem reject_spsBuf (st : HdrStatus) : (reject s st).spsBuf = s.spsBuf := rfl
@[simp] theorem reject_ppsBuf (st : HdrStatus) : (reject s st).ppsBuf = s.ppsBuf := rfl
@[simp] theorem reject_width (st : HdrStatus) : (reject s st).width = s.width := rfl
@[simp] theorem reject_height (st : HdrStatus) : (reject s st).height = s.height := rfl
@[simp] theorem reject_anomalyCount (st : HdrStatus) : (reject s st).anomalyCount = s.anomalyCount := rfl
@[simp] theorem reject_params (st : HdrStatus) : (reject s st).params = s.params := rfl
@[simp] theorem reject_input (st : HdrStatus) : (reject s st).input = s.input := rfl
@[simp] theorem reject_resetDone (st : HdrStatus) : (reject s st).resetDone = s.resetDone := rfl
@[simp] theorem reject_frameOut (st : HdrStatus) : (reject s st).frameOut = none := rfl

end Sys2Proof.Machine
end

