-- ==== Sys2Proof/Laws/Ops.lean ====
section
/-! SUPPORT. For each shared operation, one lemma that says everything it can do, cited in the place of
unfolding it; the step's inversion; and that the buffers stay within their bounds. -/

namespace Sys2Proof.Machine

variable (s : State)

/-! ## Bounds -/

theorem fits_iff (d : Bytes) (n : Nat) : fits d n = true ↔ d.length ≤ n := by
  induction d generalizing n with
  | nil => simp [fits]
  | cons b d ih => cases n <;> simp [fits, ih]

theorem auTooLong_iff (n : Nat) : auTooLong s n = true ↔ s.params.auMaxBytes < n := by
  simp [auTooLong]

theorem dimsKnown_iff : dimsKnown s = true ↔ 0 < s.width ∧ 0 < s.height := by
  simp [dimsKnown]

theorem resChange_iff (w h : Nat) :
    resChange s w h = true ↔ w ≠ 0 ∧ h ≠ 0 ∧ (w ≠ s.width ∨ h ≠ s.height) := by
  simp [resChange, and_assoc, imp_iff_not_or]

theorem seqAnomaly_iff (q : U16) : seqAnomaly s q = true ↔ ∃ n, s.seqLast = some n ∧ q ≠ n + 1 := by
  unfold seqAnomaly seqExpected
  cases s.seqLast <;> simp

theorem abandons_eq : abandons s = decide (s.reState = .accumulating) := by
  unfold abandons
  cases s.reState <;> decide

/-! ## Conditions read neither the tracker nor the caches they do not name -/

@[simp] theorem auTooLong_seqTrack (q : U16) (n : Nat) :
    auTooLong (seqTrack s q) n = auTooLong s n := rfl

@[simp] theorem dimsKnown_seqTrack (q : U16) : dimsKnown (seqTrack s q) = dimsKnown s := rfl

@[simp] theorem abandons_seqTrack (q : U16) : abandons (seqTrack s q) = abandons s := rfl

@[simp] theorem psPrefix_seqTrack (q : U16) : psPrefix (seqTrack s q) = psPrefix s := rfl

@[simp] theorem frameOf_seqTrack (q : U16) (v : Bytes) : frameOf (seqTrack s q) v = frameOf s v := rfl

@[simp] theorem spsParse_seqTrack (q : U16) (p : Bytes) :
    spsParse (seqTrack s q) p = spsParse s p := rfl

@[simp] theorem resChange_seqTrack (q : U16) (w h : Nat) :
    resChange (seqTrack s q) w h = resChange s w h := rfl

theorem spsParse_fst_lt (p : Bytes) : (spsParse s p).1 < 2 ^ s.params.dimBits :=
  Nat.mod_lt _ (Nat.two_pow_pos _)

theorem spsParse_snd_lt (p : Bytes) : (spsParse s p).2 < 2 ^ s.params.dimBits :=
  Nat.mod_lt _ (Nat.two_pow_pos _)

/-! ## Operand assembly -/

theorem psPrefix_eq : psPrefix s = cachedPrefix s := by
  simp [psPrefix, withStartCode, cachedPrefix, Config.startCode]

theorem byteAt_fuaPayload_zero (ind : BitVec 3) (a e r : BitVec 1) (typ : BitVec 5) (frag : Bytes) :
    byteAt (fuaPayload ind a e r typ frag) 0 = fuIndicator ind := rfl

theorem byteAt_fuaPayload_one (ind : BitVec 3) (a e r : BitVec 1) (typ : BitVec 5) (frag : Bytes) :
    byteAt (fuaPayload ind a e r typ frag) 1 = fuHeader a e r typ := rfl

@[simp] theorem fragment_fuaPayload (ind : BitVec 3) (a e r : BitVec 1) (typ : BitVec 5)
    (frag : Bytes) : fragment (fuaPayload ind a e r typ frag) = frag := rfl

/-! ## Completion, overflow, holding -/

theorem complete_eq (v : Bytes) :
    complete s v =
      (auClear s,
        if dimsKnown s then { action := .emitted, frame := some (frameOf s v) }
        else { action := .auDroppedNoRes }) := rfl

theorem handOver_cases (v : Bytes) :
    (s.params.auMaxBytes < v.length ∧
      handOver s v = (auClear s, { action := .auOverflow, attemptedLen := v.length })) ∨
    (v.length ≤ s.params.auMaxBytes ∧ 0 < s.width ∧ 0 < s.height ∧
      handOver s v = (auClear s, { action := .emitted, frame := some (frameOf s v) })) ∨
    (v.length ≤ s.params.auMaxBytes ∧ ¬ (0 < s.width ∧ 0 < s.height) ∧
      handOver s v = (auClear s, { action := .auDroppedNoRes })) := by
  unfold handOver
  by_cases h : auTooLong s v.length = true
  · exact .inl ⟨(auTooLong_iff s _).1 h, by simp [h, auOverflow]⟩
  · have hn : v.length ≤ s.params.auMaxBytes := Nat.le_of_not_lt (mt (auTooLong_iff s _).2 h)
    by_cases k : dimsKnown s = true
    · obtain ⟨kw, kh⟩ := (dimsKnown_iff s).1 k
      exact .inr (.inl ⟨hn, kw, kh, by simp [h, k, complete]⟩)
    · exact .inr (.inr ⟨hn, mt (dimsKnown_iff s).2 k, by simp [h, k, complete]⟩)

theorem handOver_fst (v : Bytes) : (handOver s v).1 = auClear s := by
  unfold handOver
  split <;> rfl

theorem hold_cases (v : Bytes) (a : Action) :
    (s.params.auMaxBytes < v.length ∧
      hold s v a = (auClear s, { action := .auOverflow, attemptedLen := v.length })) ∨
    (v.length ≤ s.params.auMaxBytes ∧ hold s v a = (auReplace s v, { action := a })) := by
  unfold hold
  by_cases h : auTooLong s v.length = true
  · exact .inl ⟨(auTooLong_iff s _).1 h, by simp [h, auOverflow]⟩
  · exact .inr ⟨Nat.le_of_not_lt (mt (auTooLong_iff s _).2 h), by simp [h]⟩

@[simp] theorem beginning_fst (res : State × Report) : (beginning s res).1 = res.1 := rfl

@[simp] theorem beginning_snd (res : State × Report) :
    (beginning s res).2 = { res.2 with auAbandoned := abandons s } := rfl

/-! ## The parameter-set operations -/

theorem updateDims_cases (w h : Nat) :
    (w ≠ 0 ∧ h ≠ 0 ∧ (w ≠ s.width ∨ h ≠ s.height) ∧
      updateDims s w h = (dimsReplace s w h, { action := .cachedSps, resChange := true })) ∨
    (¬ (w ≠ 0 ∧ h ≠ 0 ∧ (w ≠ s.width ∨ h ≠ s.height)) ∧
      updateDims s w h = (s, { action := .cachedSps })) := by
  unfold updateDims
  by_cases c : resChange s w h = true
  · obtain ⟨c1, c2, c3⟩ := (resChange_iff s w h).1 c
    exact .inl ⟨c1, c2, c3, by simp [c]⟩
  · exact .inr ⟨mt (resChange_iff s w h).2 c, by simp [c]⟩

theorem opSps_cases (p : Bytes) :
    (s.params.spsMaxBytes < p.length ∧
      opSps s p = (s, { action := .psDropped, attemptedLen := p.length })) ∨
    (p.length ≤ s.params.spsMaxBytes ∧
      opSps s p = updateDims (spsReplace s p) (spsParse s p).1 (spsParse s p).2) := by
  unfold opSps
  by_cases c : s.params.spsMaxBytes < p.length
  · exact .inl ⟨c, by simp [c, psOverflow]⟩
  · exact .inr ⟨Nat.le_of_not_lt c, by simp [c]⟩

theorem opPps_cases (p : Bytes) :
    (s.params.ppsMaxBytes < p.length ∧
      opPps s p = (s, { action := .psDropped, attemptedLen := p.length })) ∨
    (p.length ≤ s.params.ppsMaxBytes ∧ opPps s p = (ppsReplace s p, { action := .cachedPps })) := by
  unfold opPps
  by_cases c : s.params.ppsMaxBytes < p.length
  · exact .inl ⟨c, by simp [c, psOverflow]⟩
  · exact .inr ⟨Nat.le_of_not_lt c, by simp [c]⟩

/-! ## The reassembler's operations -/

theorem opIdr_eq (p : Bytes) :
    opIdr s p = beginning s (handOver s (cachedPrefix s ++ [0, 0, 1] ++ p)) := by
  simp [opIdr, psPrefix_eq, withStartCode, Config.startCode]

theorem opNonidr_eq (p : Bytes) : opNonidr s p = beginning s (handOver s ([0, 0, 1] ++ p)) := rfl

theorem opFuaMid_idle (p : Bytes) (h : s.reState = .idle) :
    opFuaMid s p = (s, { action := .orphanDropped }) := by
  simp [opFuaMid, h, orphan]

theorem opFuaMid_accumulating (p : Bytes) (h : s.reState = .accumulating) :
    opFuaMid s p = hold s (s.auBuf ++ fragment p) .auAppended := by
  simp [opFuaMid, h]

theorem opFuaEnd_idle (p : Bytes) (h : s.reState = .idle) :
    opFuaEnd s p = (s, { action := .orphanDropped }) := by
  simp [opFuaEnd, h, orphan]

theorem opFuaEnd_accumulating (p : Bytes) (h : s.reState = .accumulating) :
    opFuaEnd s p = handOver s (s.auBuf ++ fragment p) := by
  simp [opFuaEnd, h]

/-! ## The step -/

/-- Everything a step that answers a next state can have done. -/
theorem step_cases {t : State} (h : step s = .next t) :
    (s.input = [] ∧ t = quiet s) ∨
    (∃ rest, s.input = .reset :: rest ∧ t = applyReset { s with input := rest }) ∨
    (∃ d rest, s.input = .datagram d :: rest ∧ s.resetDone = true ∧
      d.length ≤ s.params.dgramMaxBytes ∧ exec (decode d) { s with input := rest } = .next t) := by
  unfold step present at h
  split at h
  · next e => exact .inl ⟨e, by simpa using h.symm⟩
  · next rest e => exact .inr (.inl ⟨rest, e, by simpa using h.symm⟩)
  · next d rest e =>
    unfold receive at h
    split at h
    · next hr =>
      split at h
      · next hf => exact .inr (.inr ⟨d, rest, e, hr, (fits_iff _ _).1 hf, h⟩)
      · cases h
    · cases h

/-! ## The buffers stay within their bounds -/

theorem reset_memory_wf : Memory.wf State.reset = true := by
  simp [Memory.wf, State.reset, State.resetWith]

theorem auReplace_memory_wf (v : Bytes) (h : Memory.wf s = true)
    (hv : v.length ≤ s.params.auMaxBytes) : Memory.wf (auReplace s v) = true := by
  simp_all [Memory.wf]

theorem auClear_memory_wf (h : Memory.wf s = true) : Memory.wf (auClear s) = true := by
  simp_all [Memory.wf]

theorem spsReplace_memory_wf (p : Bytes) (h : Memory.wf s = true)
    (hp : p.length ≤ s.params.spsMaxBytes) : Memory.wf (spsReplace s p) = true := by
  simp_all [Memory.wf]

theorem ppsReplace_memory_wf (p : Bytes) (h : Memory.wf s = true)
    (hp : p.length ≤ s.params.ppsMaxBytes) : Memory.wf (ppsReplace s p) = true := by
  simp_all [Memory.wf]

theorem applyReset_memory_wf : Memory.wf (applyReset s) = true := by
  simp [Memory.wf]

end Sys2Proof.Machine
end

