-- ==== Sys2Proof/Laws/Exec.lean ====
section
/-! SUPPORT. One lemma for each meaning, saying everything the instruction can do: the state it leaves
as named updates of the state it found, and the record it publishes. -/

namespace Sys2Proof.Machine

variable (s : State)

/-! ## Accepted datagrams: what the operation does, then the record -/

theorem accept_of {k : Kind} {op : State → Bytes → State × Report} {m : BitVec 1} {f : RtpFields}
    {p : Bytes} {t : State} {r : Report} (h : op (seqTrack s f.seq) p = (t, r)) :
    accept k op m f p s = publish t (acceptedOut s m f p k r) r.frame := by
  simp [accept, h]

/-! ## Rejections -/

theorem exec_rejShort (d : Bytes) : exec (.rejShort d) s = .next (reject s .rejShort) := rfl

theorem exec_rejPt (m : BitVec 1) (pt : BitVec 7) (f : RtpFields) (p : Bytes) :
    exec (.rejPt m pt f p) s = .next (reject s .rejPt) := rfl

theorem exec_rejVersion (v : BitVec 2) (m : BitVec 1) (pt : BitVec 7) (f : RtpFields) (p : Bytes) :
    exec (.rejVersion v m pt f p) s = .next (reject s .rejVersion) := rfl

/-! ## The parameter-set cache -/

theorem exec_nalSps_cases (m : BitVec 1) (f : RtpFields) (nri : BitVec 3) (body : Bytes) :
    let p : Bytes := nalPayload nri Config.nalSps body
    let w := (spsParse s p).1
    let h := (spsParse s p).2
    let after (t : State) (r : Report) : Host.Outcome State Fault Refusal :=
      .next (publish t (acceptedOut s m f p .sps r) none)
    (s.params.spsMaxBytes < p.length ∧
      exec (.nalSps m f nri body) s =
        after (seqTrack s f.seq) { action := .psDropped, attemptedLen := p.length }) ∨
    (p.length ≤ s.params.spsMaxBytes ∧ w ≠ 0 ∧ h ≠ 0 ∧ (w ≠ s.width ∨ h ≠ s.height) ∧
      exec (.nalSps m f nri body) s =
        after (dimsReplace (spsReplace (seqTrack s f.seq) p) w h)
          { action := .cachedSps, resChange := true }) ∨
    (p.length ≤ s.params.spsMaxBytes ∧ ¬ (w ≠ 0 ∧ h ≠ 0 ∧ (w ≠ s.width ∨ h ≠ s.height)) ∧
      exec (.nalSps m f nri body) s =
        after (spsReplace (seqTrack s f.seq) p) { action := .cachedSps }) := by
  intro p w h after
  have key : ∀ {t r}, opSps (seqTrack s f.seq) p = (t, r) → r.frame = none →
      exec (.nalSps m f nri body) s = after t r := by
    intro t r e hr
    exact congrArg Host.Outcome.next ((accept_of s e).trans (by rw [hr]))
  rcases opSps_cases (seqTrack s f.seq) p with ⟨hl, e⟩ | ⟨hl, e⟩
  · exact .inl ⟨hl, key e rfl⟩
  · rcases updateDims_cases (spsReplace (seqTrack s f.seq) p) w h with
      ⟨h1, h2, h3, e'⟩ | ⟨h1, e'⟩
    · exact .inr (.inl ⟨hl, h1, h2, h3, key (e.trans e') rfl⟩)
    · exact .inr (.inr ⟨hl, h1, key (e.trans e') rfl⟩)

theorem exec_nalPps_cases (m : BitVec 1) (f : RtpFields) (nri : BitVec 3) (body : Bytes) :
    let p : Bytes := nalPayload nri Config.nalPps body
    let after (t : State) (r : Report) : Host.Outcome State Fault Refusal :=
      .next (publish t (acceptedOut s m f p .pps r) none)
    (s.params.ppsMaxBytes < p.length ∧
      exec (.nalPps m f nri body) s =
        after (seqTrack s f.seq) { action := .psDropped, attemptedLen := p.length }) ∨
    (p.length ≤ s.params.ppsMaxBytes ∧
      exec (.nalPps m f nri body) s =
        after (ppsReplace (seqTrack s f.seq) p) { action := .cachedPps }) := by
  intro p after
  rcases opPps_cases (seqTrack s f.seq) p with ⟨hl, e⟩ | ⟨hl, e⟩
  · exact .inl ⟨hl, congrArg Host.Outcome.next (accept_of s e)⟩
  · exact .inr ⟨hl, congrArg Host.Outcome.next (accept_of s e)⟩

/-! ## The reassembler -/

/-- What becomes of a complete access unit `v`, as a step: the three outcomes of `handOver`. -/
theorem accept_handOver_cases {k : Kind} {op : State → Bytes → State × Report} {m : BitVec 1}
    {f : RtpFields} {p v : Bytes} (ab : Bool)
    (h : ∀ t r, handOver (seqTrack s f.seq) v = (t, r) →
      op (seqTrack s f.seq) p = (t, { r with auAbandoned := ab })) :
    let after (r : Report) (fr : Option Frame) : State :=
      publish (auClear (seqTrack s f.seq)) (acceptedOut s m f p k { r with auAbandoned := ab }) fr
    (s.params.auMaxBytes < v.length ∧
      accept k op m f p s = after { action := .auOverflow, attemptedLen := v.length } none) ∨
    (v.length ≤ s.params.auMaxBytes ∧ 0 < s.width ∧ 0 < s.height ∧
      accept k op m f p s = after { action := .emitted } (some (frameOf s v))) ∨
    (v.length ≤ s.params.auMaxBytes ∧ ¬ (0 < s.width ∧ 0 < s.height) ∧
      accept k op m f p s = after { action := .auDroppedNoRes } none) := by
  intro after
  rcases handOver_cases (seqTrack s f.seq) v with ⟨hl, e⟩ | ⟨hl, hw, hh, e⟩ | ⟨hl, hd, e⟩
  · exact .inl ⟨hl, accept_of s (h _ _ e)⟩
  · exact .inr (.inl ⟨hl, hw, hh, accept_of s (h _ _ e)⟩)
  · exact .inr (.inr ⟨hl, hd, accept_of s (h _ _ e)⟩)

/-- What becomes of the bytes `v` of an access unit that stays in progress, as a step. -/
theorem accept_hold_cases {k : Kind} {op : State → Bytes → State × Report} {m : BitVec 1}
    {f : RtpFields} {p v : Bytes} (ab : Bool) (a : Action)
    (h : ∀ t r, hold (seqTrack s f.seq) v a = (t, r) →
      op (seqTrack s f.seq) p = (t, { r with auAbandoned := ab })) :
    let after (t : State) (r : Report) : State :=
      publish t (acceptedOut s m f p k { r with auAbandoned := ab }) none
    (s.params.auMaxBytes < v.length ∧
      accept k op m f p s =
        after (auClear (seqTrack s f.seq)) { action := .auOverflow, attemptedLen := v.length }) ∨
    (v.length ≤ s.params.auMaxBytes ∧
      accept k op m f p s = after (auReplace (seqTrack s f.seq) v) { action := a }) := by
  intro after
  rcases hold_cases (seqTrack s f.seq) v a with ⟨hl, e⟩ | ⟨hl, e⟩
  · exact .inl ⟨hl, accept_of s (h _ _ e)⟩
  · exact .inr ⟨hl, accept_of s (h _ _ e)⟩

theorem opIdr_handOver (p : Bytes) (t : State) (r : Report)
    (h : handOver s (cachedPrefix s ++ [0, 0, 1] ++ p) = (t, r)) :
    opIdr s p = (t, { r with auAbandoned := decide (s.reState = .accumulating) }) := by
  rw [opIdr_eq, h, ← abandons_eq]
  rfl

theorem opNonidr_handOver (p : Bytes) (t : State) (r : Report)
    (h : handOver s ([0, 0, 1] ++ p) = (t, r)) :
    opNonidr s p = (t, { r with auAbandoned := decide (s.reState = .accumulating) }) := by
  rw [opNonidr_eq, h, ← abandons_eq]
  rfl

/-- The reconstructed header is the indicator's bits 7:5 above the FU header's type
(30_encoding.md R45), whatever its other bits are. -/
theorem recon_fuaPayload (ind : BitVec 3) (a e r : BitVec 1) (typ : BitVec 5) :
    recon (fuIndicator ind) (fuHeader a e r typ) = (ind ++ typ : BitVec 8) := by
  have h : ∀ (ind : BitVec 3) (typ : BitVec 5),
      fuIndicator ind &&& Config.nalHdrKeepMask = (ind ++ 0#5 : BitVec 8) ∧
        ∀ a e r : BitVec 1,
          fuHeader a e r typ &&& Config.nalTypeMask = (0#3 ++ typ : BitVec 8) := by
    decide +kernel
  have h' : ∀ (ind : BitVec 3) (typ : BitVec 5),
      (ind ++ 0#5 : BitVec 8) ||| (0#3 ++ typ : BitVec 8) = (ind ++ typ : BitVec 8) := by
    decide +kernel
  rw [recon, (h ind typ).1, (h ind typ).2 a e r, h' ind typ]

theorem typeBits_append (ind : BitVec 3) (typ : BitVec 5) :
    typeBits (ind ++ typ : BitVec 8) = typ := by
  revert ind typ
  decide +kernel

theorem opFuaStart_hold (ind : BitVec 3) (a e b : BitVec 1) (typ : BitVec 5) (frag : Bytes)
    (t : State) (r : Report)
    (h : hold s ((if typ = 5 then cachedPrefix s else []) ++ [0, 0, 1] ++
      (ind ++ typ : Byte) :: frag) .auStarted = (t, r)) :
    opFuaStart s (fuaPayload ind a e b typ frag) =
      (t, { r with auAbandoned := decide (s.reState = .accumulating) }) := by
  rw [← abandons_eq]
  have hv : startPrefix s (ind ++ typ : BitVec 8) ++ withStartCode ((ind ++ typ : BitVec 8) :: frag)
      = (if typ = 5 then cachedPrefix s else []) ++ [0, 0, 1] ++ (ind ++ typ : Byte) :: frag := by
    simp [startPrefix, typeBits_append, Config.nalIdr, psPrefix_eq, withStartCode, Config.startCode]
  unfold opFuaStart
  rw [byteAt_fuaPayload_zero, byteAt_fuaPayload_one, recon_fuaPayload, fragment_fuaPayload]
  simp only [hv, h]
  rfl

theorem exec_nalUnknown (m : BitVec 1) (f : RtpFields) (p : Bytes) :
    exec (.nalUnknown m f p) s =
      .next (publish (seqTrack s f.seq) (acceptedOut s m f p .unknown { action := .ignored }) none) :=
  rfl

theorem exec_nalIdr_cases (m : BitVec 1) (f : RtpFields) (nri : BitVec 3) (body : Bytes) :
    let p : Bytes := nalPayload nri Config.nalIdr body
    let v : Bytes := cachedPrefix s ++ [0, 0, 1] ++ p
    let after (r : Report) (fr : Option Frame) : Host.Outcome State Fault Refusal :=
      .next (publish (auClear (seqTrack s f.seq))
        (acceptedOut s m f p .idr { r with auAbandoned := decide (s.reState = .accumulating) }) fr)
    (s.params.auMaxBytes < v.length ∧
      exec (.nalIdr m f nri body) s =
        after { action := .auOverflow, attemptedLen := v.length } none) ∨
    (v.length ≤ s.params.auMaxBytes ∧ 0 < s.width ∧ 0 < s.height ∧
      exec (.nalIdr m f nri body) s = after { action := .emitted } (some (frameOf s v))) ∨
    (v.length ≤ s.params.auMaxBytes ∧ ¬ (0 < s.width ∧ 0 < s.height) ∧
      exec (.nalIdr m f nri body) s = after { action := .auDroppedNoRes } none) := by
  intro p v after
  rcases accept_handOver_cases s (k := .idr) (m := m) (p := p) (v := v) _
    (fun t r h => opIdr_handOver (seqTrack s f.seq) p t r h) with ⟨hl, e⟩ | ⟨hl, hw, hh, e⟩ | ⟨hl, hd, e⟩
  · exact .inl ⟨hl, congrArg Host.Outcome.next e⟩
  · exact .inr (.inl ⟨hl, hw, hh, congrArg Host.Outcome.next e⟩)
  · exact .inr (.inr ⟨hl, hd, congrArg Host.Outcome.next e⟩)

theorem exec_nalNonidr_cases (m : BitVec 1) (f : RtpFields) (nri : BitVec 3) (body : Bytes) :
    let p : Bytes := nalPayload nri Config.nalNonidr body
    let v : Bytes := [0, 0, 1] ++ p
    let after (r : Report) (fr : Option Frame) : Host.Outcome State Fault Refusal :=
      .next (publish (auClear (seqTrack s f.seq))
        (acceptedOut s m f p .nonidr { r with auAbandoned := decide (s.reState = .accumulating) }) fr)
    (s.params.auMaxBytes < v.length ∧
      exec (.nalNonidr m f nri body) s =
        after { action := .auOverflow, attemptedLen := v.length } none) ∨
    (v.length ≤ s.params.auMaxBytes ∧ 0 < s.width ∧ 0 < s.height ∧
      exec (.nalNonidr m f nri body) s = after { action := .emitted } (some (frameOf s v))) ∨
    (v.length ≤ s.params.auMaxBytes ∧ ¬ (0 < s.width ∧ 0 < s.height) ∧
      exec (.nalNonidr m f nri body) s = after { action := .auDroppedNoRes } none) := by
  intro p v after
  rcases accept_handOver_cases s (k := .nonidr) (m := m) (p := p) (v := v) _
    (fun t r h => opNonidr_handOver (seqTrack s f.seq) p t r h) with ⟨hl, e⟩ | ⟨hl, hw, hh, e⟩ | ⟨hl, hd, e⟩
  · exact .inl ⟨hl, congrArg Host.Outcome.next e⟩
  · exact .inr (.inl ⟨hl, hw, hh, congrArg Host.Outcome.next e⟩)
  · exact .inr (.inr ⟨hl, hd, congrArg Host.Outcome.next e⟩)

theorem exec_fuaStart_cases (m : BitVec 1) (f : RtpFields) (ind : BitVec 3) (e r : BitVec 1)
    (typ : BitVec 5) (frag : Bytes) :
    let v : Bytes := (if typ = 5 then cachedPrefix s else []) ++ [0, 0, 1] ++
      (ind ++ typ : Byte) :: frag
    let after (t : State) (y : Report) : Host.Outcome State Fault Refusal :=
      .next (publish t (acceptedOut s m f (fuaPayload ind 1 e r typ frag) .fuaStart
        { y with auAbandoned := decide (s.reState = .accumulating) }) none)
    (s.params.auMaxBytes < v.length ∧
      exec (.fuaStart m f ind e r typ frag) s =
        after (auClear (seqTrack s f.seq)) { action := .auOverflow, attemptedLen := v.length }) ∨
    (v.length ≤ s.params.auMaxBytes ∧
      exec (.fuaStart m f ind e r typ frag) s =
        after (auReplace (seqTrack s f.seq) v) { action := .auStarted }) := by
  intro v after
  rcases accept_hold_cases s (k := .fuaStart) (m := m) (p := fuaPayload ind 1 e r typ frag) (v := v)
    _ .auStarted (fun t y h => opFuaStart_hold (seqTrack s f.seq) ind 1 e r typ frag t y h) with
    ⟨hl, e⟩ | ⟨hl, e⟩
  · exact .inl ⟨hl, congrArg Host.Outcome.next e⟩
  · exact .inr ⟨hl, congrArg Host.Outcome.next e⟩

theorem exec_fuaMid_idle (f : RtpFields) (ind : BitVec 3) (e r : BitVec 1) (typ : BitVec 5)
    (frag : Bytes) (h : s.reState = .idle) :
    exec (.fuaMid f ind e r typ frag) s =
      .next (publish (seqTrack s f.seq)
        (acceptedOut s 0 f (fuaPayload ind 0 e r typ frag) .fuaCont { action := .orphanDropped })
        none) :=
  congrArg Host.Outcome.next (accept_of s (opFuaMid_idle (seqTrack s f.seq) _ h))

theorem exec_fuaMid_cases (f : RtpFields) (ind : BitVec 3) (e r : BitVec 1) (typ : BitVec 5)
    (frag : Bytes) (h : s.reState = .accumulating) :
    let v : Bytes := s.auBuf ++ frag
    let after (t : State) (y : Report) : Host.Outcome State Fault Refusal :=
      .next (publish t (acceptedOut s 0 f (fuaPayload ind 0 e r typ frag) .fuaCont y) none)
    (s.params.auMaxBytes < v.length ∧
      exec (.fuaMid f ind e r typ frag) s =
        after (auClear (seqTrack s f.seq)) { action := .auOverflow, attemptedLen := v.length }) ∨
    (v.length ≤ s.params.auMaxBytes ∧
      exec (.fuaMid f ind e r typ frag) s =
        after (auReplace (seqTrack s f.seq) v) { action := .auAppended }) := by
  intro v after
  have e0 := opFuaMid_accumulating (seqTrack s f.seq) (fuaPayload ind 0 e r typ frag) h
  rcases hold_cases (seqTrack s f.seq) v .auAppended with ⟨hl, e1⟩ | ⟨hl, e1⟩
  · exact .inl ⟨hl, congrArg Host.Outcome.next (accept_of s (e0.trans e1))⟩
  · exact .inr ⟨hl, congrArg Host.Outcome.next (accept_of s (e0.trans e1))⟩

theorem exec_fuaEnd_idle (f : RtpFields) (ind : BitVec 3) (e r : BitVec 1) (typ : BitVec 5)
    (frag : Bytes) (h : s.reState = .idle) :
    exec (.fuaEnd f ind e r typ frag) s =
      .next (publish (seqTrack s f.seq)
        (acceptedOut s 1 f (fuaPayload ind 0 e r typ frag) .fuaCont { action := .orphanDropped })
        none) :=
  congrArg Host.Outcome.next (accept_of s (opFuaEnd_idle (seqTrack s f.seq) _ h))

theorem exec_fuaEnd_cases (f : RtpFields) (ind : BitVec 3) (e r : BitVec 1) (typ : BitVec 5)
    (frag : Bytes) (h : s.reState = .accumulating) :
    let v : Bytes := s.auBuf ++ frag
    let after (y : Report) (fr : Option Frame) : Host.Outcome State Fault Refusal :=
      .next (publish (auClear (seqTrack s f.seq))
        (acceptedOut s 1 f (fuaPayload ind 0 e r typ frag) .fuaCont y) fr)
    (s.params.auMaxBytes < v.length ∧
      exec (.fuaEnd f ind e r typ frag) s =
        after { action := .auOverflow, attemptedLen := v.length } none) ∨
    (v.length ≤ s.params.auMaxBytes ∧ 0 < s.width ∧ 0 < s.height ∧
      exec (.fuaEnd f ind e r typ frag) s = after { action := .emitted } (some (frameOf s v))) ∨
    (v.length ≤ s.params.auMaxBytes ∧ ¬ (0 < s.width ∧ 0 < s.height) ∧
      exec (.fuaEnd f ind e r typ frag) s = after { action := .auDroppedNoRes } none) := by
  intro v after
  have e0 := opFuaEnd_accumulating (seqTrack s f.seq) (fuaPayload ind 0 e r typ frag) h
  rcases handOver_cases (seqTrack s f.seq) v with ⟨hl, e1⟩ | ⟨hl, hw, hh, e1⟩ | ⟨hl, hd, e1⟩
  · exact .inl ⟨hl, congrArg Host.Outcome.next (accept_of s (e0.trans e1))⟩
  · exact .inr (.inl ⟨hl, hw, hh, congrArg Host.Outcome.next (accept_of s (e0.trans e1))⟩)
  · exact .inr (.inr ⟨hl, hd, congrArg Host.Outcome.next (accept_of s (e0.trans e1))⟩)

/-! ## All instructions together -/

/-- Everything `exec` can do: one case for each way an instruction's step can go, with the condition
under which it goes that way, the state it leaves and the record it publishes. -/
inductive Effect (s : State) : Instr → State → Prop where
  | rejShort (d : Bytes) : Effect s (.rejShort d) (reject s .rejShort)
  | rejPt (m : BitVec 1) (pt : BitVec 7) (f : RtpFields) (p : Bytes) :
    Effect s (.rejPt m pt f p) (reject s .rejPt)
  | rejVersion (v : BitVec 2) (m : BitVec 1) (pt : BitVec 7) (f : RtpFields) (p : Bytes) :
    Effect s (.rejVersion v m pt f p) (reject s .rejVersion)
  | unknown (m : BitVec 1) (f : RtpFields) (p : Bytes) :
    Effect s (.nalUnknown m f p)
      (publish (seqTrack s f.seq) (acceptedOut s m f p .unknown { action := .ignored }) none)
  | spsDropped (m : BitVec 1) (f : RtpFields) (nri : BitVec 3) (body : Bytes)
    (hl : s.params.spsMaxBytes < body.length + 1) :
    Effect s (.nalSps m f nri body)
      (publish (seqTrack s f.seq)
        (acceptedOut s m f (nalPayload nri Config.nalSps body) .sps
          { action := .psDropped, attemptedLen := body.length + 1 }) none)
  | spsNewDims (m : BitVec 1) (f : RtpFields) (nri : BitVec 3) (body : Bytes) (w h : Nat)
    (hl : body.length + 1 ≤ s.params.spsMaxBytes)
    (hp : spsParse s (nalPayload nri Config.nalSps body) = (w, h)) (hw : w ≠ 0) (hh : h ≠ 0)
    (hd : w ≠ s.width ∨ h ≠ s.height) :
    Effect s (.nalSps m f nri body)
      (publish (dimsReplace (spsReplace (seqTrack s f.seq) (nalPayload nri Config.nalSps body)) w h)
        (acceptedOut s m f (nalPayload nri Config.nalSps body) .sps
          { action := .cachedSps, resChange := true }) none)
  | spsSameDims (m : BitVec 1) (f : RtpFields) (nri : BitVec 3) (body : Bytes) (w h : Nat)
    (hl : body.length + 1 ≤ s.params.spsMaxBytes)
    (hp : spsParse s (nalPayload nri Config.nalSps body) = (w, h))
    (hd : ¬ (w ≠ 0 ∧ h ≠ 0 ∧ (w ≠ s.width ∨ h ≠ s.height))) :
    Effect s (.nalSps m f nri body)
      (publish (spsReplace (seqTrack s f.seq) (nalPayload nri Config.nalSps body))
        (acceptedOut s m f (nalPayload nri Config.nalSps body) .sps { action := .cachedSps }) none)
  | ppsDropped (m : BitVec 1) (f : RtpFields) (nri : BitVec 3) (body : Bytes)
    (hl : s.params.ppsMaxBytes < body.length + 1) :
    Effect s (.nalPps m f nri body)
      (publish (seqTrack s f.seq)
        (acceptedOut s m f (nalPayload nri Config.nalPps body) .pps
          { action := .psDropped, attemptedLen := body.length + 1 }) none)
  | ppsCached (m : BitVec 1) (f : RtpFields) (nri : BitVec 3) (body : Bytes)
    (hl : body.length + 1 ≤ s.params.ppsMaxBytes) :
    Effect s (.nalPps m f nri body)
      (publish (ppsReplace (seqTrack s f.seq) (nalPayload nri Config.nalPps body))
        (acceptedOut s m f (nalPayload nri Config.nalPps body) .pps { action := .cachedPps }) none)
  | orphan (i : Instr) (m : BitVec 1) (f : RtpFields) (p : Bytes) (hs : s.reState = .idle)
    (hi : (∃ ind e r typ frag, i = .fuaMid f ind e r typ frag ∧ m = 0 ∧
        p = fuaPayload ind 0 e r typ frag) ∨
      ∃ ind e r typ frag, i = .fuaEnd f ind e r typ frag ∧ m = 1 ∧
        p = fuaPayload ind 0 e r typ frag) :
    Effect s i
      (publish (seqTrack s f.seq) (acceptedOut s m f p .fuaCont { action := .orphanDropped }) none)
  | overflow (i : Instr) (m : BitVec 1) (f : RtpFields) (p v : Bytes) (hv : auWrite i s = some v)
    (hf : seqOf i = some f.seq) (hl : s.params.auMaxBytes < v.length) :
    Effect s i
      (publish (auClear (seqTrack s f.seq))
        (acceptedOut s m f p i.op.kind
          { action := .auOverflow
            auAbandoned := begins i.op && decide (s.reState = .accumulating)
            attemptedLen := v.length }) none)
  | emitted (i : Instr) (m : BitVec 1) (f : RtpFields) (p v : Bytes) (hv : auWrite i s = some v)
    (hf : seqOf i = some f.seq) (hc : completes i.op = true) (hl : v.length ≤ s.params.auMaxBytes)
    (hw : 0 < s.width) (hh : 0 < s.height) :
    Effect s i
      (publish (auClear (seqTrack s f.seq))
        (acceptedOut s m f p i.op.kind
          { action := .emitted
            auAbandoned := begins i.op && decide (s.reState = .accumulating) })
        (some (frameOf s v)))
  | noRes (i : Instr) (m : BitVec 1) (f : RtpFields) (p v : Bytes) (hv : auWrite i s = some v)
    (hf : seqOf i = some f.seq) (hc : completes i.op = true) (hl : v.length ≤ s.params.auMaxBytes)
    (hd : ¬ (0 < s.width ∧ 0 < s.height)) :
    Effect s i
      (publish (auClear (seqTrack s f.seq))
        (acceptedOut s m f p i.op.kind
          { action := .auDroppedNoRes
            auAbandoned := begins i.op && decide (s.reState = .accumulating) }) none)
  | held (i : Instr) (m : BitVec 1) (f : RtpFields) (p v : Bytes) (hv : auWrite i s = some v)
    (hf : seqOf i = some f.seq) (hc : completes i.op = false) (hl : v.length ≤ s.params.auMaxBytes) :
    Effect s i
      (publish (auReplace (seqTrack s f.seq) v)
        (acceptedOut s m f p i.op.kind
          { action := if begins i.op then .auStarted else .auAppended
            auAbandoned := begins i.op && decide (s.reState = .accumulating) }) none)

/-- `exec` always answers a next state, and by one of the ways of `Effect`. -/
theorem exec_effect (i : Instr) : ∃ t, exec i s = .next t ∧ Effect s i t := by
  cases i with
  | rejShort d => exact ⟨_, rfl, .rejShort d⟩
  | rejPt m pt f p => exact ⟨_, rfl, .rejPt m pt f p⟩
  | rejVersion v m pt f p => exact ⟨_, rfl, .rejVersion v m pt f p⟩
  | nalUnknown m f p => exact ⟨_, rfl, .unknown m f p⟩
  | nalSps m f nri body =>
    rcases exec_nalSps_cases s m f nri body with ⟨h1, h⟩ | ⟨h1, h2, h3, h4, h⟩ | ⟨h1, h2, h⟩
    · exact ⟨_, h, .spsDropped m f nri body h1⟩
    · exact ⟨_, h, .spsNewDims m f nri body _ _ h1 rfl h2 h3 h4⟩
    · exact ⟨_, h, .spsSameDims m f nri body _ _ h1 rfl h2⟩
  | nalPps m f nri body =>
    rcases exec_nalPps_cases s m f nri body with ⟨h1, h⟩ | ⟨h1, h⟩
    · exact ⟨_, h, .ppsDropped m f nri body h1⟩
    · exact ⟨_, h, .ppsCached m f nri body h1⟩
  | nalIdr m f nri body =>
    rcases exec_nalIdr_cases s m f nri body with ⟨h1, h⟩ | ⟨h1, h2, h3, h⟩ | ⟨h1, h2, h⟩
    · exact ⟨_, h, .overflow _ m f _ _ rfl rfl h1⟩
    · exact ⟨_, h, .emitted _ m f _ _ rfl rfl rfl h1 h2 h3⟩
    · exact ⟨_, h, .noRes _ m f _ _ rfl rfl rfl h1 h2⟩
  | nalNonidr m f nri body =>
    rcases exec_nalNonidr_cases s m f nri body with ⟨h1, h⟩ | ⟨h1, h2, h3, h⟩ | ⟨h1, h2, h⟩
    · exact ⟨_, h, .overflow _ m f _ _ rfl rfl h1⟩
    · exact ⟨_, h, .emitted _ m f _ _ rfl rfl rfl h1 h2 h3⟩
    · exact ⟨_, h, .noRes _ m f _ _ rfl rfl rfl h1 h2⟩
  | fuaStart m f ind e r typ frag =>
    rcases exec_fuaStart_cases s m f ind e r typ frag with ⟨h1, h⟩ | ⟨h1, h⟩
    · exact ⟨_, h, .overflow _ m f _ _ rfl rfl h1⟩
    · exact ⟨_, h, .held _ m f _ _ rfl rfl rfl h1⟩
  | fuaMid f ind e r typ frag =>
    cases hs : s.reState with
    | idle =>
      exact ⟨_, exec_fuaMid_idle s f ind e r typ frag hs,
        .orphan _ 0 f _ hs (.inl ⟨ind, e, r, typ, frag, rfl, rfl, rfl⟩)⟩
    | accumulating =>
      have hv : auWrite (.fuaMid f ind e r typ frag) s = some (s.auBuf ++ frag) := by
        simp [auWrite, hs]
      rcases exec_fuaMid_cases s f ind e r typ frag hs with ⟨h1, h⟩ | ⟨h1, h⟩
      · exact ⟨_, h, .overflow _ 0 f _ _ hv rfl h1⟩
      · exact ⟨_, h, .held _ 0 f _ _ hv rfl rfl h1⟩
  | fuaEnd f ind e r typ frag =>
    cases hs : s.reState with
    | idle =>
      exact ⟨_, exec_fuaEnd_idle s f ind e r typ frag hs,
        .orphan _ 1 f _ hs (.inr ⟨ind, e, r, typ, frag, rfl, rfl, rfl⟩)⟩
    | accumulating =>
      have hv : auWrite (.fuaEnd f ind e r typ frag) s = some (s.auBuf ++ frag) := by
        simp [auWrite, hs]
      rcases exec_fuaEnd_cases s f ind e r typ frag hs with ⟨h1, h⟩ | ⟨h1, h2, h3, h⟩ | ⟨h1, h2, h⟩
      · exact ⟨_, h, .overflow _ 1 f _ _ hv rfl h1⟩
      · exact ⟨_, h, .emitted _ 1 f _ _ hv rfl rfl h1 h2 h3⟩
      · exact ⟨_, h, .noRes _ 1 f _ _ hv rfl rfl h1 h2⟩

/-- What `exec` does, from its answer. -/
theorem effect_of_exec {i : Instr} {t : State} (h : exec i s = .next t) : Effect s i t := by
  obtain ⟨u, hu, e⟩ := exec_effect s i
  rw [h] at hu
  cases hu
  exact e

end Sys2Proof.Machine
end

