-- ==== Sys2Proof/Laws/PerInstr.lean ====
section
/-! SUPPORT. Families of statements made per instruction. -/

namespace Sys2Proof.Laws.EncodeFitsRow

open Machine

/-- The length of an instruction's encoding is within the lengths of some row of the opcode table with
its operation (30_encoding.md R48). -/
def Statement (i : Instr) : Prop :=
  i.wellFormed = true →
    ∃ r ∈ opcodeTable, r.op = i.op ∧ r.minLen ≤ (encode i).length ∧
      ∀ n, r.maxLen = some n → (encode i).length ≤ n

theorem headerBytes_length (v : BitVec 2) (m : BitVec 1) (pt : BitVec 7) (f : RtpFields) :
    (headerBytes v m pt f).length = 12 := rfl

theorem acceptedBytes_length (m : BitVec 1) (f : RtpFields) (p : Bytes) :
    (acceptedBytes m f p).length = p.length + 12 := by
  simp [acceptedBytes, headerBytes_length]; omega

theorem rejShort (d : Bytes) : Statement (.rejShort d) := by
  intro h
  exact ⟨_, .head _, rfl, Nat.zero_le _, by simpa [Instr.wellFormed, encode] using h⟩

theorem nalNonidr (m : BitVec 1) (f : RtpFields) (nri : BitVec 3) (body : Bytes) :
    Statement (.nalNonidr m f nri body) := fun _ =>
  ⟨⟨.nalNonidr, 0xC07F1F00, 0x80600100, 13, none⟩, by decide, rfl,
    by simp [encode, acceptedBytes_length, nalPayload], by simp⟩

theorem nalIdr (m : BitVec 1) (f : RtpFields) (nri : BitVec 3) (body : Bytes) :
    Statement (.nalIdr m f nri body) := fun _ =>
  ⟨⟨.nalIdr, 0xC07F1F00, 0x80600500, 13, none⟩, by decide, rfl,
    by simp [encode, acceptedBytes_length, nalPayload], by simp⟩

theorem nalSps (m : BitVec 1) (f : RtpFields) (nri : BitVec 3) (body : Bytes) :
    Statement (.nalSps m f nri body) := fun _ =>
  ⟨⟨.nalSps, 0xC07F1F00, 0x80600700, 13, none⟩, by decide, rfl,
    by simp [encode, acceptedBytes_length, nalPayload], by simp⟩

theorem nalPps (m : BitVec 1) (f : RtpFields) (nri : BitVec 3) (body : Bytes) :
    Statement (.nalPps m f nri body) := fun _ =>
  ⟨⟨.nalPps, 0xC07F1F00, 0x80600800, 13, none⟩, by decide, rfl,
    by simp [encode, acceptedBytes_length, nalPayload], by simp⟩

theorem fuaStart (m : BitVec 1) (f : RtpFields) (ind : BitVec 3) (e r : BitVec 1) (typ : BitVec 5)
    (frag : Bytes) : Statement (.fuaStart m f ind e r typ frag) := fun _ =>
  ⟨⟨.fuaStart, 0xC07F1F80, 0x80601C80, 14, none⟩, by decide, rfl,
    by simp [encode, acceptedBytes_length, fuaPayload], by simp⟩

theorem fuaMid (f : RtpFields) (ind : BitVec 3) (e r : BitVec 1) (typ : BitVec 5) (frag : Bytes) :
    Statement (.fuaMid f ind e r typ frag) := fun _ =>
  ⟨⟨.fuaMid, 0xC0FF1F80, 0x80601C00, 14, none⟩, by decide, rfl,
    by simp [encode, acceptedBytes_length, fuaPayload], by simp⟩

theorem fuaEnd (f : RtpFields) (ind : BitVec 3) (e r : BitVec 1) (typ : BitVec 5) (frag : Bytes) :
    Statement (.fuaEnd f ind e r typ frag) := fun _ =>
  ⟨⟨.fuaEnd, 0xC0FF1F80, 0x80E01C00, 14, none⟩, by decide, rfl,
    by simp [encode, acceptedBytes_length, fuaPayload], by simp⟩

theorem nalUnknown (m : BitVec 1) (f : RtpFields) (p : Bytes) : Statement (.nalUnknown m f p) :=
  fun _ =>
  ⟨⟨.nalUnknown, 0xC07F0000, 0x80600000, 12, none⟩, by decide, rfl,
    by simp [encode, acceptedBytes_length], by simp⟩

theorem rejPt (m : BitVec 1) (pt : BitVec 7) (f : RtpFields) (p : Bytes) :
    Statement (.rejPt m pt f p) := fun _ =>
  ⟨⟨.rejPt, 0xC0000000, 0x80000000, 12, none⟩, by decide, rfl,
    by simp [encode, headerBytes_length], by simp⟩

theorem rejVersion (v : BitVec 2) (m : BitVec 1) (pt : BitVec 7) (f : RtpFields) (p : Bytes) :
    Statement (.rejVersion v m pt f p) := fun _ =>
  ⟨⟨.rejVersion, 0x00000000, 0x00000000, 12, none⟩, by decide, rfl,
    by simp [encode, headerBytes_length], by simp⟩

end Sys2Proof.Laws.EncodeFitsRow
end

