-- ==== Sys2Proof/Tests/Slice0.lean ====
section
/-! SUPPORT. Tests: the checks of `WellFormed` refuse ill-formed terms, written-out datagrams decode to
the instructions they stand for, single steps give what the vectors of 95_test_vectors.md give, and
every hypothesis of a statement is met by a concrete state. Each expected result is the spec's, cited
by the vector's name. -/

namespace Sys2Proof.Tests

open Sys2Proof.Machine

/-! ## States (95_test_vectors.md section 0) -/

/-- The parameters of the vectors: STD with 4096 and 256, SMALL with 16 and 4. The spec leaves
`FOURCC_H264` symbolic, so its value here is arbitrary. -/
def paramsOf (au ps : Nat) : Config.Params where
  auMaxBytes := au
  spsMaxBytes := ps
  ppsMaxBytes := ps
  dgramMaxBytes := 64
  fourcc := 0x12345678
  dimBits := 16
  spsAnswers :=
    [([0x67, 0x42, 0x00, 0x1F], (1280, 720)), ([0x67, 0x4D, 0x00, 0x1E], (640, 0)), ([0x67], (0, 0))]

/-- S0. -/
def s0 : State := State.resetWith (paramsOf 4096 256)

/-- S1. -/
def s1 : State :=
  { s0 with
    seqLast := some 2, spsBuf := [0x67, 0x42, 0x00, 0x1F], ppsBuf := [0x68, 0xCE, 0x3C, 0x80]
    width := 1280, height := 720 }

/-- The bytes of `au_buf` in S2. -/
def s2Bytes : Bytes :=
  [0, 0, 1, 0x67, 0x42, 0x00, 0x1F, 0, 0, 1, 0x68, 0xCE, 0x3C, 0x80, 0, 0, 1, 0x65, 0xAA, 0xBB]

/-- S2. -/
def s2 : State := { s1 with seqLast := some 3, reState := .accumulating, auBuf := s2Bytes }

/-- SM2, under SMALL. -/
def sm2 : State :=
  { State.resetWith (paramsOf 16 4) with
    seqLast := some 3, reState := .accumulating
    auBuf := [0, 0, 1, 0x41, 1, 2, 3, 4, 5, 6, 7, 8, 9, 0x0A]
    spsBuf := [0x67, 0x42, 0x00, 0x1F], ppsBuf := [0x68, 0xCE], width := 1280, height := 720 }

/-- A state with a datagram presented, and nothing after it. -/
def offered (s : State) (d : Bytes) : State := { s with input := [.datagram d] }

/-- The state after the step of a datagram. -/
def after (s : State) (d : Bytes) : Option State :=
  match step (offered s d) with
  | .next t => some t
  | .fault _ => none
  | .refused _ => none

/-- What the step of a datagram reports and emits. -/
def shown (s : State) (d : Bytes) : Option (Option Summary × Option Frame) :=
  (after s d).map fun t => (t.out.map summaryOf, t.frameOut)

/-- Whether the step of a datagram leaves every element of the block as it was. -/
def keepsAll (s : State) (d : Bytes) : Bool :=
  match after s d with
  | some t => SameElements s t
  | none => false

/-- A frame of the vectors: 1280 by 720. -/
def frame (v : Bytes) : Option Frame := some ⟨1280, 720, 0x12345678, v.length, v⟩

/-- Header fields that are 0 but for the sequence number. -/
def f0 (q : U16) : RtpFields := ⟨0, 0, 0, q, 0, 0⟩

/-! ## Well-formedness: one ill-formed term for each check -/

theorem test_wf_rejShort : (Instr.rejShort (List.replicate 12 0)).wellFormed = false := by decide
theorem test_wf_rejVersion : (Instr.rejVersion 2 0 96 (f0 1) []).wellFormed = false := by decide
theorem test_wf_rejPt : (Instr.rejPt 0 96 (f0 1) []).wellFormed = false := by decide
theorem test_wf_unknown_single : ∀ t ∈ [(1 : Byte), 5, 7, 8],
    (Instr.nalUnknown 0 (f0 1) [0x60 ||| t]).wellFormed = false := by decide
theorem test_wf_unknown_fua : (Instr.nalUnknown 0 (f0 1) [0x7C, 0x05]).wellFormed = false := by decide

/-! ## Decoding: every constructor, on a datagram written out from the formats of 30_encoding.md -/

/-- DEC2: 11 bytes. -/
theorem test_decode_rejShort :
    decode [0x80, 0x60, 0, 1, 0, 0, 0, 0, 0, 0, 0] =
      .rejShort [0x80, 0x60, 0, 1, 0, 0, 0, 0, 0, 0, 0] := by decide

/-- DEC8: `F = 1`, `NRI = 3`, `M = 1`. -/
theorem test_decode_nonidr :
    decode [0x80, 0xE0, 0, 1, 0, 0, 0, 0, 0, 0, 0, 0, 0xE1, 0x00] = .nalNonidr 1 (f0 1) 7 [0x00] := by
  decide

/-- DEC28: `P = X = 1`, `CC = 15`. -/
theorem test_decode_idr :
    decode [0xBF, 0x60, 0, 1, 0, 0, 0, 0, 0, 0, 0, 0, 0x65] = .nalIdr 0 ⟨1, 1, 15, 1, 0, 0⟩ 3 [] := by
  decide

/-- 40_rtp_header.md R66. -/
theorem test_decode_fields :
    decode [0x80, 0xE0, 0x12, 0x34, 0x00, 0x01, 0x5F, 0x90, 0xDE, 0xAD, 0xBE, 0xEF, 0x65, 0x88, 0x84] =
      .nalIdr 1 ⟨0, 0, 0, 0x1234, 0x00015F90, 0xDEADBEEF⟩ 3 [0x88, 0x84] := by decide

/-- DEC6. -/
theorem test_decode_sps :
    decode [0x80, 0x60, 0, 1, 0, 0, 0, 0, 0, 0, 0, 0, 0x67] = .nalSps 0 (f0 1) 3 [] := by decide

/-- DEC7. -/
theorem test_decode_pps :
    decode [0x80, 0x60, 0, 1, 0, 0, 0, 0, 0, 0, 0, 0, 0x68] = .nalPps 0 (f0 1) 3 [] := by decide

/-- DEC17: `F = 1` in the indicator. -/
theorem test_decode_fuaStart :
    decode [0x80, 0x60, 0, 1, 0, 0, 0, 0, 0, 0, 0, 0, 0xFC, 0x85] =
      .fuaStart 0 (f0 1) 7 0 0 5 [] := by decide

/-- DEC15: `S = 0`, `E = 1`, `M = 0`. -/
theorem test_decode_fuaMid :
    decode [0x80, 0x60, 0, 1, 0, 0, 0, 0, 0, 0, 0, 0, 0x7C, 0x45] = .fuaMid (f0 1) 3 1 0 5 [] := by
  decide

/-- DEC14: `S = 0`, `E = 0`, `M = 1`. -/
theorem test_decode_fuaEnd :
    decode [0x80, 0xE0, 0, 1, 0, 0, 0, 0, 0, 0, 0, 0, 0x7C, 0x05] = .fuaEnd (f0 1) 3 0 0 5 [] := by
  decide

/-- DEC9: an FU-A payload of one byte. -/
theorem test_decode_unknown :
    decode [0x80, 0x60, 0, 1, 0, 0, 0, 0, 0, 0, 0, 0, 0x7C] = .nalUnknown 0 (f0 1) [0x7C] := by decide

/-- DEC23: `PT = 0`, `M = 1`. -/
theorem test_decode_rejPt :
    decode [0x80, 0x80, 0, 1, 0, 0, 0, 0, 0, 0, 0, 0, 0x65] = .rejPt 1 0 (f0 1) [0x65] := by decide

/-- DEC26: `V = 1`. -/
theorem test_decode_rejVersion :
    decode [0x40, 0x60, 0, 1, 0, 0, 0, 0, 0, 0, 0, 0, 0x65] = .rejVersion 1 0 96 (f0 1) [0x65] := by
  decide

/-- `FUS` and `FUE` as 30_encoding.md R54 expands them (DEC11, DEC13). -/
theorem test_notation :
    fus 1 1 0x65 [0xAA] = [0x80, 0xE0, 0, 1, 0, 0, 0, 0, 0, 0, 0, 0, 0x7C, 0x85, 0xAA] ∧
      fue 1 0x65 [] = [0x80, 0xE0, 0, 1, 0, 0, 0, 0, 0, 0, 0, 0, 0x7C, 0x45] := by decide

/-! ## Single steps, from the vectors of 95_test_vectors.md -/

/-- H3: the length is checked before the version. -/
theorem test_rejShort :
    let d : Bytes := [0xC0, 0, 0, 3, 0, 0, 0, 0, 0, 0, 0]
    shown s1 d = some (some ⟨.rejShort, .none, .none, false, false, 0⟩, none) ∧ keepsAll s1 d := by
  decide

/-- H7: the version is checked before the payload type. -/
theorem test_rejVersion :
    let d := rtpPacket 3 0 0 3 0 0 0 [0x41]
    shown s1 d = some (some ⟨.rejVersion, .none, .none, false, false, 0⟩, none) ∧ keepsAll s1 d := by
  decide

/-- H8. -/
theorem test_rejPt :
    let d := rtpPacket 2 97 0 3 0 0 0 [0x41, 0x9A, 0x02]
    shown s1 d = some (some ⟨.rejPt, .none, .none, false, false, 0⟩, none) ∧ keepsAll s1 d := by
  decide

/-- SN7: a non-IDR slice abandons the run in progress. -/
theorem test_nonidr_abandons :
    shown s2 (single 4 0 [0x41, 0x9A, 0x02]) =
      some (some ⟨.accepted, .nonidr, .emitted, false, true, 0⟩,
        frame [0, 0, 1, 0x41, 0x9A, 0x02]) := by decide

/-- X5: dropped while the dimensions are unknown. -/
theorem test_nonidr_no_dimensions :
    shown s0 (single 4 0 [0x41, 0x9A, 0x02]) =
      some (some ⟨.accepted, .nonidr, .auDroppedNoRes, false, false, 0⟩, none) := by decide

/-- SN1: the prefix holds the SPS, then the PPS. -/
theorem test_idr_prefix :
    shown s1 (single 3 0 [0x65, 0x88, 0x84]) =
      some (some ⟨.accepted, .idr, .emitted, false, false, 0⟩,
        frame [0, 0, 1, 0x67, 0x42, 0x00, 0x1F, 0, 0, 1, 0x68, 0xCE, 0x3C, 0x80, 0, 0, 1, 0x65, 0x88,
          0x84]) := by decide

/-- SN5: the start code of an empty PPS is written. -/
theorem test_idr_empty_pps :
    shown { s1 with ppsBuf := [] } (single 2 0 [0x65, 0x88, 0x84]) =
      some (some ⟨.accepted, .idr, .emitted, false, false, 0⟩,
        frame [0, 0, 1, 0x67, 0x42, 0x00, 0x1F, 0, 0, 1, 0, 0, 1, 0x65, 0x88, 0x84]) := by
  decide

/-- P1: the dimensions are learnt. -/
theorem test_sps_cached :
    (after s0 (single 1 0 [0x67, 0x42, 0x00, 0x1F])).map (fun t => (t.spsBuf, t.width, t.height)) =
      some ([0x67, 0x42, 0x00, 0x1F], 1280, 720) := by decide

/-- P5: one zero component leaves the dimensions. -/
theorem test_sps_one_zero :
    (after s1 (single 2 0 [0x67, 0x4D, 0x00, 0x1E])).map (fun t => (t.spsBuf, t.width, t.height)) =
      some ([0x67, 0x4D, 0x00, 0x1E], 1280, 720) := by decide

/-- P10: four bytes are `PPS_MAX_BYTES` under SMALL. -/
theorem test_pps_at_its_bound :
    (after sm2 (single 2 0 [0x68, 0xCE, 0x3C, 0x80])).map (fun t => (t.ppsBuf, t.auBuf)) =
      some ([0x68, 0xCE, 0x3C, 0x80], sm2.auBuf) := by decide

/-- 42_parameter_sets.md R82: five bytes are one too many. -/
theorem test_pps_beyond_its_bound :
    shown sm2 (single 2 0 [0x68, 1, 2, 3, 4]) =
      some (some ⟨.accepted, .pps, .psDropped, false, false, 5⟩, none) := by decide

/-- F4: no prefix for type 1, and the header comes from both bytes. -/
theorem test_fuaStart_type_one :
    (after s1 (fus 3 0 0x41 [0x11, 0x22])).map (fun t => (t.reState, t.auBuf)) =
      some (.accumulating, [0, 0, 1, 0x41, 0x11, 0x22]) := by decide

/-- O8: the abandon and the overflow in one step. -/
theorem test_fuaStart_overflow :
    shown sm2 (fus 4 0 0x65 [0xAA]) =
      some (some ⟨.accepted, .fuaStart, .auOverflow, false, true, 17⟩, none) := by decide

/-- B2: `E = 1` with `M = 0` appends and does not complete. -/
theorem test_fuaMid_end_bit :
    (after s2 (rtpDefault 0 4 [0x7C, 0x45, 0xCC])).map (fun t => (t.reState, t.auBuf)) =
      some (.accumulating, s2Bytes ++ [0xCC]) := by decide

/-- F8: an orphan. -/
theorem test_fuaMid_orphan :
    shown s1 (fum 3 0x65 [0xCC]) =
      some (some ⟨.accepted, .fuaCont, .orphanDropped, false, false, 0⟩, none) := by decide

/-- F12: a continuation's own indicator and type are not compared. -/
theorem test_fuaEnd_not_compared :
    shown s2 (rtpDefault 1 4 [0x5C, 0x01, 0xEE]) =
      some (some ⟨.accepted, .fuaCont, .emitted, false, false, 0⟩, frame (s2Bytes ++ [0xEE])) := by
  decide

/-- O7: 17 bytes do not fit 16. -/
theorem test_fuaEnd_overflow :
    shown sm2 (fue 4 0x41 [0xEE, 0xFF, 0x00]) =
      some (some ⟨.accepted, .fuaCont, .auOverflow, false, false, 17⟩, none) := by decide

/-- T3: after 65535, 0 is in order. -/
theorem test_unknown_wraps :
    (after { s0 with seqLast := some 65535 } (single 0 0 [0x78, 0x00, 0x11])).map
      (fun t => (t.seqLast, t.anomalyCount)) = some (some 0, 0) := by decide

/-- T14: the counter wraps. -/
theorem test_unknown_counter_wraps :
    (after { s0 with seqLast := some 1000, anomalyCount := 0xFFFFFFFF } (single 7 0 [0x78])).map
      (fun t => (t.seqLast, t.anomalyCount)) = some (some 7, 0) := by decide

/-- X3: a reset clears everything. -/
theorem test_reset :
    (match step { s2 with input := [.reset] } with
      | .next t => decide (t = s0)
      | .fault _ => false
      | .refused _ => false) = true := by decide

/-- A word of the opcode table runs as the first instruction after reset, whatever the parameters. -/
theorem test_withFetchWord :
    (match step (State.reset.withFetchWord 32 0x80604100) with
      | .next _ => true
      | .fault _ => false
      | .refused _ => false) = true := by decide

/-- The word's instruction (DEC4), and the row without bits. -/
theorem test_decodeTableWord :
    decodeTableWord 32 0x80604100 = some (.nalNonidr 0 (f0 0) 2 [0]) ∧
      decodeTableWord 0 0 = some (.rejShort []) := by decide

/-! ## Every hypothesis of a statement is met -/

/-- Two resets, then one reset, then nothing; and a state in which there is something to clear. -/
theorem test_witness_reset_inputs :
    ({ s2 with input := [.reset, .reset] } : State).input = .reset :: .reset :: [] ∧
      ({ s2 with input := [.reset] } : State).input = .reset :: [] ∧ s2.input = [] ∧
      s2.seqLast ≠ none ∧ s2.spsBuf ≠ [] ∧ s2.ppsBuf ≠ [] ∧ s2.width ≠ 0 ∧ s2.height ≠ 0 := by decide

/-- A datagram presented to a block that has been reset, at the lengths around the two bounds: 11 and
12 bytes, 64 (`DGRAM_MAX_BYTES`) and 65. -/
theorem test_witness_admitted_lengths :
    s1.resetDone = true ∧ s1.params.dgramMaxBytes = 64 ∧
      (∀ n ∈ [0, 11, 12, 64], ∃ t ∈ after s1 (List.replicate n 0), t.out.isSome) ∧
      (match step (offered s1 (List.replicate 65 0)) with
        | .refused .datagramTooLong => true
        | _ => false) = true := by decide

/-- A datagram presented before the first reset. -/
theorem test_witness_before_reset :
    (match step { offered s1 (single 3 0 [0x41]) with resetDone := false } with
      | .refused .beforeReset => true
      | _ => false) = true := by decide

/-- A datagram that decodes to a well-formed instruction, and is the encoding of it. -/
theorem test_witness_step_runs :
    let i : Instr := .fuaMid (f0 4) 3 0 0 5 [0xCC]
    i.wellFormed = true ∧ encode i = fum 4 0x65 [0xCC] ∧ decode (fum 4 0x65 [0xCC]) = i ∧
      (offered s2 (encode i)).input = .datagram (encode i) :: [] ∧
      (offered s2 (encode i)).resetDone = true ∧ (encode i).length ≤ s2.params.dgramMaxBytes ∧
      (after s2 (encode i)).isSome := by decide

/-- Well-formed terms at the boundaries of the checks: 11 bytes, versions 1 and 3, payload types 95 and
97, an FU-A payload of one byte, the empty payload. -/
theorem test_witness_well_formed :
    ∀ i ∈ [Instr.rejShort (List.replicate 11 0), .rejVersion 1 0 96 (f0 1) [],
      .rejVersion 3 0 96 (f0 1) [], .rejPt 0 95 (f0 1) [], .rejPt 1 97 (f0 1) [],
      .nalUnknown 0 (f0 1) [0x7C], .nalUnknown 1 (f0 1) []], i.wellFormed = true := by decide

/-- Accepted datagrams of 12, 13 and 14 bytes, one for each kind. -/
theorem test_witness_kinds :
    ∀ x ∈ [(([] : Bytes), Kind.unknown), ([0x67], .sps), ([0x68], .pps), ([0x65], .idr),
        ([0x41], .nonidr), ([0x7C], .unknown), ([0x7C, 0x85], .fuaStart), ([0x7C, 0x05], .fuaCont),
        ([0x78, 0x00], .unknown)],
      let d := single 3 0 x.1
      12 ≤ d.length ∧ (d.getD 0 0).extractLsb 7 6 = 2 ∧ (d.getD 1 0).extractLsb 6 0 = 96 ∧
        ((shown s1 d).bind (·.1)).map (·.kind) = some x.2 := by decide

/-- Two datagrams that differ in `P`, `X`, `CC`, the timestamp and the SSRC only. -/
theorem test_witness_uninterpreted :
    let d := single 3 0 [0x41, 0x9A]
    let d' := rtpPacket 2 96 0 3 0xDEADBEEF 0x12345678 0x3F [0x41, 0x9A]
    d ≠ d' ∧ d.length = d'.length ∧ (d.getD 0 0).extractLsb 7 6 = (d'.getD 0 0).extractLsb 7 6 ∧
      d.getD 1 0 = d'.getD 1 0 ∧ d.getD 2 0 = d'.getD 2 0 ∧ d.getD 3 0 = d'.getD 3 0 ∧
      d.drop 12 = d'.drop 12 := by decide

/-- Two datagrams that differ in `M` only: a start fragment, and a continuation (both `E` bits). -/
theorem test_witness_marker :
    (∀ p ∈ [[0x7C, 0x85], [0x7C, 0x05], [(0x7C : Byte), 0x45]],
      let d := rtpDefault 0 4 p
      let d' := rtpDefault 1 4 p
      d ≠ d' ∧ d.length = d'.length ∧ d.getD 0 0 = d'.getD 0 0 ∧
        (d.getD 1 0).extractLsb 6 0 = (d'.getD 1 0).extractLsb 6 0 ∧ d.drop 2 = d'.drop 2) ∧
    ∀ d ∈ [rtpDefault 0 4 [0x7C, 0x45], rtpDefault 1 4 [0x7C, 0x05]],
      14 ≤ d.length ∧ (d.getD 0 0).extractLsb 7 6 = 2 ∧ (d.getD 1 0).extractLsb 6 0 = 96 ∧
        (d.getD 12 0).extractLsb 4 0 = 28 ∧ (d.getD 13 0).extractLsb 7 7 = 0 := by decide

/-- A sequence number accepted after another one, at the wrap and beside it. -/
theorem test_witness_sequence :
    ({ s0 with seqLast := some 65535 } : State).seqLast = some 65535 ∧
      seqOf (.nalUnknown 0 (f0 0) []) = some 0 ∧ seqOf (.nalUnknown 0 (f0 65535) []) = some 65535 :=
  ⟨rfl, rfl, rfl⟩

/-- Parameter sets of exactly the bound and one byte more, under SMALL. -/
theorem test_witness_parameter_set_bounds :
    ([0x42, 0x00, 0x1F] : Bytes).length + 1 = sm2.params.spsMaxBytes ∧
      sm2.params.spsMaxBytes < ([0x42, 0x00, 0x1F, 0x00] : Bytes).length + 1 ∧
      ([0xCE, 0x3C, 0x80] : Bytes).length + 1 = sm2.params.ppsMaxBytes ∧
      sm2.params.ppsMaxBytes < ([0xCE, 0x3C, 0x80, 0x00] : Bytes).length + 1 := by decide

/-- An instruction that is no SPS, and an SPS beyond its bound: the oracle is not consulted. -/
theorem test_witness_oracle :
    (∀ m f nri body, Instr.nalIdr 0 (f0 1) 3 [] = .nalSps m f nri body →
      sm2.params.spsMaxBytes < body.length + 1) ∧
    (∀ m f nri body, Instr.nalSps 0 (f0 1) 3 [1, 2, 3, 4] = .nalSps m f nri body →
      sm2.params.spsMaxBytes < body.length + 1) ∧
    (Instr.nalIdr 0 (f0 1) 3 []).op ≠ .nalSps ∧ (Instr.nalIdr 0 (f0 1) 3 []).op ≠ .nalPps := by
  refine ⟨(fun _ _ _ _ h => nomatch h), fun _ _ _ _ h => ?_, by decide, by decide⟩
  cases h
  decide

/-- Continuations that arrive in `Idle`. -/
theorem test_witness_orphan :
    s1.reState = .idle ∧ (Instr.fuaMid (f0 3) 3 0 0 5 [0xCC]).op = .fuaMid ∧
      (Instr.fuaEnd (f0 3) 3 1 0 5 [0xDD]).op = .fuaEnd := by decide

/-- Writes of exactly `AU_MAX_BYTES` and of one byte more, under SMALL. -/
theorem test_witness_au_bound :
    (auWrite (.fuaEnd (f0 4) 2 0 0 1 [0xEE, 0xFF]) sm2).map List.length = some sm2.params.auMaxBytes ∧
      (auWrite (.fuaMid (f0 4) 2 0 0 1 [0xEE, 0xFF, 0]) sm2).map List.length =
        some (sm2.params.auMaxBytes + 1) ∧
      completes (Instr.fuaEnd (f0 4) 2 0 0 1 [0xEE, 0xFF]).op = true := by decide

/-- An operation that begins an access unit while another is in progress, and overflows. -/
theorem test_witness_abandon :
    begins (Instr.fuaStart 0 (f0 4) 3 0 0 5 [0xAA]).op = true ∧ sm2.reState = .accumulating ∧
      (auWrite (.fuaStart 0 (f0 4) 3 0 0 5 [0xAA]) sm2).map List.length = some 17 ∧
      sm2.params.auMaxBytes = 16 := by decide

/-- Complete access units with the dimensions known, and unknown. -/
theorem test_witness_emission :
    completes (Instr.nalNonidr 0 (f0 3) 2 [0x9A]).op = true ∧
      auWrite (.nalNonidr 0 (f0 3) 2 [0x9A]) s1 = some [0, 0, 1, 0x41, 0x9A] ∧
      5 ≤ s1.params.auMaxBytes ∧ 0 < s1.width ∧ 0 < s1.height ∧ s0.width = 0 := by decide

/-- The pieces of a fragmented IDR slice, with an SPS and an ignored payload in between. -/
theorem test_witness_fragments :
    let mids := [fum 4 0x65 [0xCC], single 5 0 [0x67, 0x42, 0x00, 0x1F], single 6 0 [0x78]]
    let s : State :=
      { s1 with
        input := .datagram (fus 3 0 0x65 [0xAA]) ::
          (mids.map Input.datagram ++ .datagram (fue 7 0x65 [0xDD]) :: []) }
    fragmentsBetween mids = some [0xCC] ∧ s.resetDone = true ∧
      s.input = .datagram (fus 3 0 0x65 [0xAA]) ::
        (mids.map Input.datagram ++ .datagram (fue 7 0x65 [0xDD]) :: []) ∧
      (∀ d ∈ fus 3 0 0x65 [0xAA] :: fue 7 0x65 [0xDD] :: mids, d.length ≤ s.params.dgramMaxBytes) ∧
      (cachedPrefix s ++ [0, 0, 1] ++ (0x65 : Byte) :: ([0xAA] ++ [0xCC] ++ [0xDD])).length ≤
        s.params.auMaxBytes := by decide

/-- States with the invariant, one in `Idle` and one in `Accumulating`, each of which has a next one,
and an emitted frame from such a state. -/
theorem test_witness_invariant :
    RunInv (offered s1 (fus 3 0 0x65 [0xAA])) ∧ RunInv (offered sm2 (fue 4 0x41 [0xEE, 0xFF])) ∧
      (after s1 (fus 3 0 0x65 [0xAA])).isSome ∧
      (after sm2 (fue 4 0x41 [0xEE, 0xFF])).any (fun t => t.frameOut.isSome) ∧
      ¬ RunInv { s1 with auBuf := [0] } := by decide

/-- A rejected datagram's record. -/
theorem test_witness_rejected_record :
    (Instr.rejShort []).op.hdrStatus ≠ .accepted := by decide

end Sys2Proof.Tests
end

/-! The input interface (20_memory.md R28): what a step does with a presented datagram, and which
datagrams the header parser calls short. -/

namespace Sys2Proof.Machine

/-! ## A step with a datagram presented after reset -/

theorem step_eq_exec_decode {s : State} {d : Bytes} {rest : List Input}
    (hin : s.input = .datagram d :: rest) (hr : s.resetDone = true)
    (hl : d.length ≤ s.params.dgramMaxBytes) :
    step s = exec (decode d) { s with input := rest } := by
  have hf : fits d s.params.dgramMaxBytes = true := (fits_iff _ _).2 hl
  simp [step, present, receive, hin, hr, hf]

theorem step_eq_datagramTooLong {s : State} {d : Bytes} {rest : List Input}
    (hin : s.input = .datagram d :: rest) (hr : s.resetDone = true)
    (hl : s.params.dgramMaxBytes < d.length) : step s = .refused .datagramTooLong := by
  have hf : ¬ fits d s.params.dgramMaxBytes = true := mt (fits_iff _ _).1 (Nat.not_le_of_lt hl)
  simp [step, present, receive, hin, hr, hf]

/-! ## The header status of a step's record (60_exceptions.md R117) -/

theorem exec_hdrStatus (i : Instr) (s : State) :
    ∃ t o, exec i s = .next t ∧ t.out = some o ∧ o.hdrStatus = i.op.hdrStatus := by
  cases i <;> exact ⟨_, _, rfl, publish_out _ _ _, rfl⟩

theorem hdrStatus_eq_rejShort_iff (o : Op) : o.hdrStatus = .rejShort ↔ o = .rejShort := by
  cases o <;> decide

/-! ## The row of a short datagram (30_encoding.md R47, R48) -/

theorem op_decode (d : Bytes) : (decode d).op = rowOf d := by
  unfold decode
  cases rowOf d <;> rfl

/-- The table's first row tests no bit of the datagram, its length alone. -/
theorem rowOf_eq_rejShort {d : Bytes} (h : d.length ≤ 11) : rowOf d = .rejShort := by
  simp [rowOf, opcodeTable, rowMatches, h]

/-- No row but the first selects `REJ_SHORT`, and that one matches no longer datagram. -/
theorem rowOf_ne_rejShort {d : Bytes} (h : ¬ d.length ≤ 11) : rowOf d ≠ .rejShort := by
  unfold rowOf
  split
  · next r hfind =>
    have hrows : ∀ r ∈ opcodeTable, r.op = .rejShort → r.maxLen = some 11 := by decide
    intro hop
    have hmax : r.maxLen = some 11 := hrows r (List.mem_of_find?_eq_some hfind) hop
    have hmatch : rowMatches d r = true := List.find?_some hfind
    simp [rowMatches, hmax, h] at hmatch
  · exact Op.noConfusion

theorem rowOf_eq_rejShort_iff (d : Bytes) : rowOf d = .rejShort ↔ d.length ≤ 11 :=
  ⟨not_imp_not.1 rowOf_ne_rejShort, rowOf_eq_rejShort⟩

/-- Settles O7: the length decides between the refusal and the run of the decoded instruction, whose
record shows its row's header status; the table's first row takes exactly the lengths 0 to 11. -/
theorem interfaceAdmitsEveryLengthUpToTheBound :
    Obligations.InterfaceAdmitsEveryLengthUpToTheBound := by
  intro s d rest hin hr
  split
  · next hl => exact step_eq_datagramTooLong hin hr hl
  · next hl =>
    obtain ⟨t, o, hexec, hout, hstatus⟩ := exec_hdrStatus (decode d) { s with input := rest }
    refine ⟨t, o, (step_eq_exec_decode hin hr (Nat.le_of_not_lt hl)).trans hexec, hout, ?_⟩
    rw [hstatus, hdrStatus_eq_rejShort_iff, op_decode, rowOf_eq_rejShort_iff]

end Sys2Proof.Machine


/-! The payload kind of an accepted datagram (30_encoding.md R46): what the rows of the opcode table
test of a datagram's bytes, and the row of an accepted one. -/

namespace Sys2Proof.Machine

/-! ## Masked bit vectors -/

theorem bitVec_append_inj {n k : Nat} {a b : BitVec n} {x y : BitVec k} :
    a ++ x = b ++ y ↔ a = b ∧ x = y := by
  constructor
  · intro h
    have hhi := congrArg (BitVec.extractLsb' k n) h
    have hlo := congrArg (BitVec.extractLsb' 0 k) h
    simpa [BitVec.extractLsb'_append_eq_left, BitVec.extractLsb'_append_eq_right] using
      And.intro hhi hlo
  · rintro ⟨rfl, rfl⟩
    rfl

theorem extractLsb'_append_low {n k : Nat} (b : BitVec (n + k)) :
    b.extractLsb' k n ++ b.extractLsb' 0 k = b := by
  rw [BitVec.extractLsb'_append_extractLsb'_eq_extractLsb' (by simp), BitVec.extractLsb'_eq_self]

theorem and_highMask_eq_iff {n k : Nat} (b : BitVec (n + k)) (v : BitVec n) :
    b &&& (BitVec.allOnes n ++ 0#k) = v ++ 0#k ↔ b.extractLsb' k n = v := by
  conv_lhs => rw [← extractLsb'_append_low b, BitVec.and_append, bitVec_append_inj]
  simp

theorem and_lowMask_eq_iff {n k : Nat} (b : BitVec (n + k)) (v : BitVec k) :
    b &&& (0#n ++ BitVec.allOnes k) = 0#n ++ v ↔ b.extractLsb' 0 k = v := by
  conv_lhs => rw [← extractLsb'_append_low b, BitVec.and_append, bitVec_append_inj]
  simp

/-- The mask of a word tests its bytes one by one. The word's width 32 is the bytes'
`8 + 8 + 8 + 8` by evaluation only, so the lemmas about `++` are applied at the latter. -/
theorem be32_and_eq_iff (a b c e a' b' c' e' u v w x : Byte) :
    be32 a b c e &&& be32 a' b' c' e' = be32 u v w x ↔
      a &&& a' = u ∧ b &&& b' = v ∧ c &&& c' = w ∧ e &&& e' = x := by
  have h : (a ++ b ++ c ++ e) &&& (a' ++ b' ++ c' ++ e') = u ++ v ++ w ++ x ↔
      a &&& a' = u ∧ b &&& b' = v ∧ c &&& c' = w ∧ e &&& e' = x := by
    simp only [BitVec.and_append, bitVec_append_inj, and_assoc]
  exact h

/-! ## Fields of a datagram under the masks of the table (30_encoding.md R41 to R44) -/

section Rows

variable {d : Bytes}

theorem and_versionMask_iff : byteAt d 0 &&& 0xC0 = 0x80 ↔ versionOf d = Config.rtpVersion :=
  and_highMask_eq_iff (n := 2) (k := 6) (byteAt d 0) Config.rtpVersion

theorem and_payloadTypeMask_iff : byteAt d 1 &&& 0x7F = 0x60 ↔ payloadTypeOf d = Config.ptH264 :=
  and_lowMask_eq_iff (n := 1) (k := 7) (byteAt d 1) Config.ptH264

theorem and_wholeMask_iff (m : BitVec 1) (pt : BitVec 7) :
    byteAt d 1 &&& 0xFF = m ++ pt ↔ markerOf d = m ∧ payloadTypeOf d = pt := by
  have hfields : markerOf d ++ payloadTypeOf d = byteAt d 1 :=
    extractLsb'_append_low (n := 1) (k := 7) (byteAt d 1)
  have hones : byteAt d 1 &&& 0xFF = byteAt d 1 := BitVec.and_allOnes
  rw [hones, ← hfields]
  exact bitVec_append_inj

theorem and_typeMask_iff (b : Byte) (t : BitVec 5) : b &&& 0x1F = 0#3 ++ t ↔ typeBits b = t :=
  and_lowMask_eq_iff (n := 3) (k := 5) b t

theorem and_startMask_iff (b : Byte) (x : BitVec 1) : b &&& 0x80 = x ++ 0#7 ↔ bitOf b 7 = x :=
  and_highMask_eq_iff (n := 1) (k := 7) b x

/-! ## The rows of the opcode table on a datagram of version 2 and payload type 96
(30_encoding.md R47, R48) -/

theorem rowMatches_be32 (o : Op) (m₀ m₁ m₂ m₃ v₀ v₁ v₂ v₃ : Byte) (n : Nat) :
    rowMatches d ⟨o, be32 m₀ m₁ m₂ m₃, be32 v₀ v₁ v₂ v₃, n, none⟩ = true ↔
      (byteAt d 0 &&& m₀ = v₀ ∧ byteAt d 1 &&& m₁ = v₁ ∧ byteAt d 12 &&& m₂ = v₂ ∧
        byteAt d 13 &&& m₃ = v₃) ∧ n ≤ d.length := by
  simp [rowMatches, decodeWord, be32_and_eq_iff]

/-- The search for the first matching row as a chain of conditions, one for each row. -/
theorem rowOf_eq_foldr (d : Bytes) :
    rowOf d = opcodeTable.foldr (fun r o => if rowMatches d r then r.op else o) .rejVersion := by
  unfold rowOf
  induction opcodeTable with
  | nil => rfl
  | cons r rows ih =>
    rw [List.find?_cons, List.foldr_cons, ← ih]
    cases rowMatches d r <;> rfl

/-- The opcode table with its masks and values cut into bytes, and these into the fields tested. -/
theorem opcodeTable_eq_fields : opcodeTable =
    [ ⟨.rejShort, 0, 0, 0, some 11⟩,
      ⟨.nalNonidr, be32 0xC0 0x7F 0x1F 0, be32 0x80 0x60 (0#3 ++ Config.nalNonidr) 0, 13, none⟩,
      ⟨.nalIdr, be32 0xC0 0x7F 0x1F 0, be32 0x80 0x60 (0#3 ++ Config.nalIdr) 0, 13, none⟩,
      ⟨.nalSps, be32 0xC0 0x7F 0x1F 0, be32 0x80 0x60 (0#3 ++ Config.nalSps) 0, 13, none⟩,
      ⟨.nalPps, be32 0xC0 0x7F 0x1F 0, be32 0x80 0x60 (0#3 ++ Config.nalPps) 0, 13, none⟩,
      ⟨.fuaStart, be32 0xC0 0x7F 0x1F 0x80,
        be32 0x80 0x60 (0#3 ++ Config.nalFua) (1#1 ++ 0#7), 14, none⟩,
      ⟨.fuaMid, be32 0xC0 0xFF 0x1F 0x80,
        be32 0x80 (0#1 ++ Config.ptH264) (0#3 ++ Config.nalFua) (0#1 ++ 0#7), 14, none⟩,
      ⟨.fuaEnd, be32 0xC0 0xFF 0x1F 0x80,
        be32 0x80 (1#1 ++ Config.ptH264) (0#3 ++ Config.nalFua) (0#1 ++ 0#7), 14, none⟩,
      ⟨.nalUnknown, be32 0xC0 0x7F 0 0, be32 0x80 0x60 0 0, 12, none⟩,
      ⟨.rejPt, be32 0xC0 0 0 0, be32 0x80 0 0 0, 12, none⟩,
      ⟨.rejVersion, 0, 0, 12, none⟩ ] := rfl

variable (hv : versionOf d = Config.rtpVersion) (hpt : payloadTypeOf d = Config.ptH264)
include hv hpt

/-- A row of a single NAL unit tests the type bits. -/
theorem rowMatches_nal (o : Op) (t : BitVec 5) :
    rowMatches d ⟨o, be32 0xC0 0x7F 0x1F 0, be32 0x80 0x60 (0#3 ++ t) 0, 13, none⟩ =
      decide (typeBits (byteAt d 12) = t ∧ 13 ≤ d.length) := by
  rw [Bool.eq_iff_iff, rowMatches_be32, and_versionMask_iff, and_payloadTypeMask_iff,
    and_typeMask_iff]
  simp [hv, hpt]

/-- The row of a start fragment tests the type bits and the start bit. -/
theorem rowMatches_fuaStart (o : Op) :
    rowMatches d ⟨o, be32 0xC0 0x7F 0x1F 0x80,
      be32 0x80 0x60 (0#3 ++ Config.nalFua) (1#1 ++ 0#7), 14, none⟩ =
      decide ((typeBits (byteAt d 12) = Config.nalFua ∧ 14 ≤ d.length) ∧
        bitOf (byteAt d 13) 7 = 1) := by
  rw [Bool.eq_iff_iff, rowMatches_be32, and_versionMask_iff, and_payloadTypeMask_iff,
    and_typeMask_iff, and_startMask_iff]
  simp only [hv, hpt, decide_eq_true_eq]
  tauto

/-- The row of a continuation tests the type bits, the start bit and the marker. -/
theorem rowMatches_fuaCont (o : Op) (m : BitVec 1) :
    rowMatches d ⟨o, be32 0xC0 0xFF 0x1F 0x80,
      be32 0x80 (m ++ Config.ptH264) (0#3 ++ Config.nalFua) (0#1 ++ 0#7), 14, none⟩ =
      decide ((typeBits (byteAt d 12) = Config.nalFua ∧ 14 ≤ d.length) ∧
        bitOf (byteAt d 13) 7 = 0 ∧ markerOf d = m) := by
  rw [Bool.eq_iff_iff, rowMatches_be32, and_versionMask_iff, and_wholeMask_iff,
    and_typeMask_iff, and_startMask_iff]
  simp only [hv, hpt, decide_eq_true_eq]
  tauto

/-- The row of an ignored payload tests nothing of the payload. -/
theorem rowMatches_nalUnknown (o : Op) :
    rowMatches d ⟨o, be32 0xC0 0x7F 0 0, be32 0x80 0x60 0 0, 12, none⟩ =
      decide (12 ≤ d.length) := by
  rw [Bool.eq_iff_iff, rowMatches_be32, and_versionMask_iff, and_payloadTypeMask_iff]
  simp [hv, hpt]

/-- The first row that matches an accepted datagram, in the order of the opcode table. -/
theorem rowOf_of_accepted (hl : 12 ≤ d.length) :
    rowOf d =
      if typeBits (byteAt d 12) = Config.nalNonidr ∧ 13 ≤ d.length then .nalNonidr
      else if typeBits (byteAt d 12) = Config.nalIdr ∧ 13 ≤ d.length then .nalIdr
      else if typeBits (byteAt d 12) = Config.nalSps ∧ 13 ≤ d.length then .nalSps
      else if typeBits (byteAt d 12) = Config.nalPps ∧ 13 ≤ d.length then .nalPps
      else if typeBits (byteAt d 12) = Config.nalFua ∧ 14 ≤ d.length then
        if bitOf (byteAt d 13) 7 = 1 then .fuaStart
        else if markerOf d = 0 then .fuaMid else .fuaEnd
      else .nalUnknown := by
  have hshort : rowMatches d ⟨.rejShort, 0, 0, 0, some 11⟩ = false := by
    simp [rowMatches, show ¬ d.length ≤ 11 by omega]
  simp only [rowOf_eq_foldr, opcodeTable_eq_fields, List.foldr_cons, hshort, rowMatches_nal hv hpt,
    rowMatches_fuaStart hv hpt, rowMatches_fuaCont hv hpt, rowMatches_nalUnknown hv hpt, hl,
    decide_eq_true_eq, if_true, Bool.false_eq_true, if_false]
  by_cases hfua : typeBits (byteAt d 12) = Config.nalFua ∧ 14 ≤ d.length
  · obtain ⟨ht, hl14⟩ := hfua
    rcases BitVec.eq_zero_or_eq_one (bitOf (byteAt d 13) 7) with hcont | hstart
    · rcases BitVec.eq_zero_or_eq_one (markerOf d) with hm | hm <;> simp [ht, hl14, hcont, hm]
    · simp [ht, hl14, hstart]
  · simp only [hfua, false_and, if_false]

end Rows

/-! ## The payload kind of a step's record (60_exceptions.md R118) -/

theorem exec_kind (i : Instr) (s : State) :
    ∃ t o, exec i s = .next t ∧ t.out = some o ∧ o.kind = i.op.kind := by
  cases i <;> exact ⟨_, _, rfl, publish_out _ _ _, rfl⟩

/-- The kind of an accepted datagram's row, in the order of the classifier. -/
theorem kind_rowOf_of_accepted {d : Bytes} (hv : versionOf d = Config.rtpVersion)
    (hpt : payloadTypeOf d = Config.ptH264) (hl : 12 ≤ d.length) :
    (rowOf d).kind =
      if d.length = 12 then .unknown
      else if typeBits (byteAt d 12) = Config.nalSps then .sps
      else if typeBits (byteAt d 12) = Config.nalPps then .pps
      else if typeBits (byteAt d 12) = Config.nalIdr then .idr
      else if typeBits (byteAt d 12) = Config.nalNonidr then .nonidr
      else if typeBits (byteAt d 12) = Config.nalFua then
        if d.length < 14 then .unknown
        else if bitOf (byteAt d 13) 7 = 1 then .fuaStart
        else .fuaCont
      else .unknown := by
  rw [rowOf_of_accepted hv hpt hl]
  by_cases hempty : d.length = 12
  · simp [hempty, Op.kind]
  have hl13 : 13 ≤ d.length := by omega
  simp only [hempty, hl13, and_true, if_false, Config.nalSps, Config.nalPps, Config.nalIdr,
    Config.nalNonidr, Config.nalFua]
  by_cases hnonidr : typeBits (byteAt d 12) = 1#5
  · simp [hnonidr, Op.kind]
  by_cases hidr : typeBits (byteAt d 12) = 5#5
  · simp [hidr, Op.kind]
  by_cases hsps : typeBits (byteAt d 12) = 7#5
  · simp [hsps, Op.kind]
  by_cases hpps : typeBits (byteAt d 12) = 8#5
  · simp [hpps, Op.kind]
  by_cases hfua : typeBits (byteAt d 12) = 28#5
  · by_cases hl14 : 14 ≤ d.length
    · by_cases hstart : bitOf (byteAt d 13) 7 = 1#1
      · simp [hfua, hl14, hstart, Nat.not_lt.2 hl14, Op.kind]
      · by_cases hm : markerOf d = 0#1 <;>
          simp [hfua, hl14, hstart, hm, Nat.not_lt.2 hl14, Op.kind]
    · simp [hfua, hl14, Nat.lt_of_not_ge hl14, Op.kind]
  · simp [hnonidr, hidr, hsps, hpps, hfua, Op.kind]

/-- Settles O16: the record shows the kind of the datagram's row, and the rows of an accepted
datagram are told apart by the type bits of byte 12 and, for type 28, the presence of byte 13 and
its start bit. -/
theorem payloadKindFollowsItsFirstBytes : Obligations.PayloadKindFollowsItsFirstBytes := by
  intro s d hl hv hpt
  obtain ⟨t, o, hexec, hout, hkind⟩ := exec_kind (decode d) s
  refine ⟨t, o, hexec, hout, ?_⟩
  rw [hkind, op_decode]
  exact kind_rowOf_of_accepted hv hpt hl

end Sys2Proof.Machine


/-! What the RTP header of a datagram decides (40_rtp_header.md R56 to R65): the rows of rejected
datagrams, the step of a datagram from its header status, payload kind and marker, and the fields
that step does not read. -/

namespace Sys2Proof.Machine

/-! ## The header checks and the rows they select (40_rtp_header.md R60, 30_encoding.md R48) -/

section Header

variable {d : Bytes}

theorem headerStatus_eq_accepted_iff : headerStatus d = .accepted ↔
    12 ≤ d.length ∧ versionOf d = Config.rtpVersion ∧ payloadTypeOf d = Config.ptH264 := by
  unfold headerStatus
  split_ifs with hl hv hpt <;> simp_all [Config.hdrLen]

theorem headerStatus_congr {d' : Bytes} (hl : d'.length = d.length)
    (hv : versionOf d' = versionOf d) (hpt : payloadTypeOf d' = payloadTypeOf d) : headerStatus d' = headerStatus d := by
  simp only [headerStatus, hl, hv, hpt]

/-- Every row that tests the two version bits is one of version 2. -/
theorem rowMatches_of_version_ne (hv : versionOf d ≠ Config.rtpVersion) (o : Op)
    (m₁ m₂ m₃ v₁ v₂ v₃ : Byte) (n : Nat) :
    rowMatches d ⟨o, be32 0xC0 m₁ m₂ m₃, be32 0x80 v₁ v₂ v₃, n, none⟩ = false := by
  rw [Bool.eq_false_iff, ne_eq, rowMatches_be32, and_versionMask_iff]
  exact fun h => hv h.1.1

/-- A row that tests the payload type, but not the marker, is one of payload type 96. -/
theorem rowMatches_of_payloadType_ne (hpt : payloadTypeOf d ≠ Config.ptH264) (o : Op)
    (m₀ m₂ m₃ v₀ v₂ v₃ : Byte) (n : Nat) :
    rowMatches d ⟨o, be32 m₀ 0x7F m₂ m₃, be32 v₀ 0x60 v₂ v₃, n, none⟩ = false := by
  rw [Bool.eq_false_iff, ne_eq, rowMatches_be32, and_payloadTypeMask_iff]
  exact fun h => hpt h.1.2.1

/-- So is a row that tests the payload type and the marker. -/
theorem rowMatches_of_payloadType_ne_marker (hpt : payloadTypeOf d ≠ Config.ptH264) (o : Op)
    (m : BitVec 1) (m₀ m₂ m₃ v₀ v₂ v₃ : Byte) (n : Nat) :
    rowMatches d ⟨o, be32 m₀ 0xFF m₂ m₃, be32 v₀ (m ++ Config.ptH264) v₂ v₃, n, none⟩ = false := by
  rw [Bool.eq_false_iff, ne_eq, rowMatches_be32, and_wholeMask_iff]
  exact fun h => hpt h.1.2.1.2

theorem rowMatches_rejShort_of_le (hl : 12 ≤ d.length) :
    rowMatches d ⟨.rejShort, 0, 0, 0, some 11⟩ = false := by
  simp [rowMatches, show ¬ d.length ≤ 11 by omega]

theorem rowOf_of_version_ne (hl : 12 ≤ d.length) (hv : versionOf d ≠ Config.rtpVersion) :
    rowOf d = .rejVersion := by
  simp only [rowOf_eq_foldr, opcodeTable_eq_fields, List.foldr_cons, List.foldr_nil,
    rowMatches_rejShort_of_le hl, rowMatches_of_version_ne hv, Bool.false_eq_true, if_false,
    ite_self]

theorem rowOf_of_payloadType_ne (hl : 12 ≤ d.length) (hv : versionOf d = Config.rtpVersion)
    (hpt : payloadTypeOf d ≠ Config.ptH264) : rowOf d = .rejPt := by
  have hrow : rowMatches d ⟨.rejPt, be32 0xC0 0 0 0, be32 0x80 0 0 0, 12, none⟩ = true := by
    rw [rowMatches_be32, and_versionMask_iff]
    simp [hv, hl]
  simp only [rowOf_eq_foldr, opcodeTable_eq_fields, List.foldr_cons, List.foldr_nil,
    rowMatches_rejShort_of_le hl, rowMatches_of_payloadType_ne hpt,
    rowMatches_of_payloadType_ne_marker hpt, hrow, Bool.false_eq_true, if_false, if_true]

theorem hdrStatus_rowOf_of_accepted (hl : 12 ≤ d.length) (hv : versionOf d = Config.rtpVersion)
    (hpt : payloadTypeOf d = Config.ptH264) : (rowOf d).hdrStatus = .accepted := by
  rw [rowOf_of_accepted hv hpt hl]
  split_ifs <;> rfl

/-- The row that the opcode table selects reports what the header checks decide. -/
theorem hdrStatus_rowOf (d : Bytes) : (rowOf d).hdrStatus = headerStatus d := by
  unfold headerStatus
  split_ifs with hl hv hpt
  · rw [rowOf_eq_rejShort (Nat.le_of_lt_succ hl)]; rfl
  · rw [rowOf_of_version_ne (Nat.le_of_not_lt hl) hv]; rfl
  · rw [rowOf_of_payloadType_ne (Nat.le_of_not_lt hl) (not_not.1 hv) hpt]; rfl
  · exact hdrStatus_rowOf_of_accepted (Nat.le_of_not_lt hl) (not_not.1 hv) (not_not.1 hpt)

end Header

/-! ## The payload of a datagram and the operands cut from it (30_encoding.md R39, R42 to R44) -/

section Payload

variable {d : Bytes}

theorem byteAt_drop (d : Bytes) (n i : Nat) : byteAt (d.drop n) i = byteAt d (n + i) := by
  simp [byteAt, List.getD_eq_getElem?_getD, List.getElem?_drop]

theorem drop_eq_byteAt_cons {n : Nat} (h : n < d.length) :
    d.drop n = byteAt d n :: d.drop (n + 1) := by
  rw [List.drop_eq_getElem_cons h, byteAt, List.getD_eq_getElem _ _ h]

theorem nalHeader_keepBits_typeBits (b : Byte) : nalHeader (keepBits b) (typeBits b) = b :=
  extractLsb'_append_low (n := 3) (k := 5) b

/-- The FU header is the byte whose fields were read as the start, end and reserved bit and type. -/
theorem fuHeader_fields (b : Byte) :
    fuHeader (bitOf b 7) (bitOf b 6) (bitOf b 5) (typeBits b) = b := by
  revert b
  decide +kernel

theorem nalPayload_eq_payloadOf {t : BitVec 5} (ht : typeBits (byteAt d 12) = t)
    (hl : 13 ≤ d.length) : nalPayload (keepBits (byteAt d 12)) t (d.drop 13) = payloadOf d := by
  subst ht
  rw [nalPayload, nalHeader_keepBits_typeBits]
  exact (drop_eq_byteAt_cons hl).symm

theorem fuaPayload_eq_payloadOf {a : BitVec 1} (ht : typeBits (byteAt d 12) = Config.nalFua)
    (hl : 14 ≤ d.length) (ha : bitOf (byteAt d 13) 7 = a) :
    fuaPayload (keepBits (byteAt d 12)) a (bitOf (byteAt d 13) 6) (bitOf (byteAt d 13) 5)
      (typeBits (byteAt d 13)) (d.drop 14) = payloadOf d := by
  subst ha
  rw [fuaPayload, fuIndicator, ← ht, nalHeader_keepBits_typeBits, fuHeader_fields,
    ← drop_eq_byteAt_cons (n := 13) hl]
  exact (drop_eq_byteAt_cons (Nat.lt_of_succ_lt hl)).symm

/-- The row of an accepted datagram reports the kind of its payload. -/
theorem kind_rowOf (h : headerStatus d = .accepted) : (rowOf d).kind = classify (payloadOf d) := by
  obtain ⟨hl, hv, hpt⟩ := headerStatus_eq_accepted_iff.1 h
  rw [kind_rowOf_of_accepted hv hpt hl, payloadOf, Config.hdrLen]
  rcases hl.eq_or_lt with h12 | h13
  · simp [← h12, classify, List.drop_eq_nil_of_le h12.ge]
  rw [drop_eq_byteAt_cons h13, if_neg h13.ne']
  rcases (Nat.succ_le_of_lt h13).eq_or_lt with h13' | h14
  · simp [← h13', classify, List.drop_eq_nil_of_le h13'.ge]
  · rw [drop_eq_byteAt_cons h14]
    simp [classify, Nat.not_lt.2 (Nat.succ_le_of_lt h14)]

end Payload

/-! ## The step of a datagram by the prose of 40_rtp_header.md R56 -/

/-- The operation on an accepted payload of a kind: the marker chooses between the two continuations
and has no other part in it (40_rtp_header.md R65). A rejected datagram's kind has no operation. -/
def operation (m : BitVec 1) : Kind → State → Bytes → State × Report
  | .none => fun s _ => (s, { action := .none })
  | .sps => opSps
  | .pps => opPps
  | .idr => opIdr
  | .nonidr => opNonidr
  | .fuaStart => opFuaStart
  | .fuaCont => if m = 0 then opFuaMid else opFuaEnd
  | .unknown => opUnknown

theorem operation_marker {k : Kind} (hk : k ≠ .fuaCont) (m m' : BitVec 1) :
    operation m k = operation m' k := by
  cases k with
  | fuaCont => exact absurd rfl hk
  | none | sps | pps | idr | nonidr | fuaStart | unknown => rfl

/-- The step of an accepted datagram. -/
def acceptDatagram (d : Bytes) (s : State) : State :=
  accept (classify (payloadOf d)) (operation (markerOf d) (classify (payloadOf d))) (markerOf d)
    (fieldsOf d) (payloadOf d) s

theorem exec_decode_of_accepted {d : Bytes} (h : headerStatus d = .accepted) (s : State) :
    exec (decode d) s = .next (acceptDatagram d s) := by
  obtain ⟨hl, hv, hpt⟩ := headerStatus_eq_accepted_iff.1 h
  have hcont (hstart : ¬ bitOf (byteAt d 13) 7 = 1) : bitOf (byteAt d 13) 7 = 0 :=
    (BitVec.eq_zero_or_eq_one _).resolve_right hstart
  rw [acceptDatagram, ← kind_rowOf h]
  unfold decode
  rw [rowOf_of_accepted hv hpt hl]
  split_ifs with hnonidr hidr hsps hpps hfua hstart hm
  · rw [← nalPayload_eq_payloadOf hnonidr.1 hnonidr.2]; rfl
  · rw [← nalPayload_eq_payloadOf hidr.1 hidr.2]; rfl
  · rw [← nalPayload_eq_payloadOf hsps.1 hsps.2]; rfl
  · rw [← nalPayload_eq_payloadOf hpps.1 hpps.2]; rfl
  · rw [← fuaPayload_eq_payloadOf hfua.1 hfua.2 hstart]; rfl
  · rw [← fuaPayload_eq_payloadOf hfua.1 hfua.2 (hcont hstart), hm]
    rfl
  · rw [← fuaPayload_eq_payloadOf hfua.1 hfua.2 (hcont hstart),
      (BitVec.eq_zero_or_eq_one (markerOf d)).resolve_left hm]
    rfl
  · rfl

theorem exec_of_rejected {i : Instr} (h : i.op.hdrStatus ≠ .accepted) (s : State) :
    exec i s = .next (reject s i.op.hdrStatus) := by
  cases i with
  | rejShort d => exact exec_rejShort s d
  | rejPt m pt f p => exact exec_rejPt s m pt f p
  | rejVersion v m pt f p => exact exec_rejVersion s v m pt f p
  | _ => exact absurd rfl h

theorem exec_decode_of_rejected {d : Bytes} {st : HdrStatus} (hst : headerStatus d = st)
    (h : st ≠ .accepted) (s : State) : exec (decode d) s = .next (reject s st) := by
  rw [← hst, ← hdrStatus_rowOf, ← op_decode] at h ⊢
  exact exec_of_rejected h s

/-- Settles O22: the three rejections are one operation, which writes the two ports alone. -/
theorem rejectedDatagramsChangeNoElement : Obligations.RejectedDatagramsChangeNoElement :=
  fun s => ⟨exec_rejShort s, exec_rejPt s, exec_rejVersion s⟩

/-! ## The record of an accepted datagram (40_rtp_header.md R62) -/

theorem accept_out (k : Kind) (op : State → Bytes → State × Report) (m : BitVec 1) (f : RtpFields)
    (p : Bytes) (s : State) :
    (accept k op m f p s).out = some { acceptedOut s m f p k (op (seqTrack s f.seq) p).2 with
      reStateAfter := (accept k op m f p s).reState
      widthAfter := (accept k op m f p s).width
      heightAfter := (accept k op m f p s).height
      anomalyCountAfter := (accept k op m f p s).anomalyCount } := rfl

theorem toNat_append_eq {n k : Nat} (a : BitVec n) (b : BitVec k) :
    (a ++ b).toNat = a.toNat * 2 ^ k + b.toNat := by
  rw [BitVec.toNat_append, ← Nat.shiftLeft_add_eq_or_of_lt b.isLt, Nat.shiftLeft_eq]

theorem be16_toNat (hi lo : Byte) : (be16 hi lo).toNat = hi.toNat * 2 ^ 8 + lo.toNat :=
  toNat_append_eq hi lo

theorem be32_toNat (a b c e : Byte) : (be32 a b c e).toNat =
    a.toNat * 2 ^ 24 + b.toNat * 2 ^ 16 + c.toNat * 2 ^ 8 + e.toNat := by
  have h : (a ++ b ++ c ++ e).toNat =
      a.toNat * 2 ^ 24 + b.toNat * 2 ^ 16 + c.toNat * 2 ^ 8 + e.toNat := by
    simp only [toNat_append_eq]
    ring
  exact h

/-- Settles O15: the row's header status is that of the prose, whose checks stand in the order of the
statement, and the record of an accepted datagram carries the fields as the decoder reads them. -/
theorem headerChecksDecideInOrder : Obligations.HeaderChecksDecideInOrder := by
  intro s d
  obtain ⟨t, o, hexec, hout, hstatus⟩ := exec_hdrStatus (decode d) s
  rw [op_decode, hdrStatus_rowOf] at hstatus
  refine ⟨t, o, hexec, hout, ?_⟩
  split_ifs with hl hv hpt
  · exact hstatus.trans (if_pos hl)
  · exact hstatus.trans ((if_neg hl).trans (if_pos hv))
  · exact hstatus.trans ((if_neg hl).trans ((if_neg hv).trans (if_pos hpt)))
  · have hacc : headerStatus d = .accepted :=
      headerStatus_eq_accepted_iff.2 ⟨Nat.le_of_not_lt hl, not_not.1 hv, not_not.1 hpt⟩
    rw [exec_decode_of_accepted hacc] at hexec
    cases hexec
    cases (accept_out _ _ _ _ _ _).symm.trans hout
    exact ⟨rfl, (not_not.1 hv).symm, rfl, rfl, rfl, rfl, (not_not.1 hpt).symm, be16_toNat _ _,
      be32_toNat _ _ _ _, be32_toNat _ _ _ _, List.length_drop⟩

/-! ## What the step of an accepted datagram does not read (40_rtp_header.md R64, R65) -/

theorem sameElements_refl (s : State) : SameElements s s :=
  ⟨⟨rfl, rfl⟩, ⟨rfl, rfl⟩, rfl, rfl, rfl, rfl⟩

/-- The header fields but the sequence number, and the marker, go to the record and nowhere else. -/
theorem accept_congr (k : Kind) (op : State → Bytes → State × Report) (p : Bytes) (s : State)
    {f f' : RtpFields} (hq : f'.seq = f.seq) (m m' : BitVec 1) :
    SameElements (accept k op m f p s) (accept k op m' f' p s) ∧
      SameReport (accept k op m f p s) (accept k op m' f' p s) := by
  cases f
  cases f'
  cases hq
  exact ⟨sameElements_refl _, rfl, rfl⟩

/-- Settles O19: the header checks read the length, the version and the payload type, and the step of
an accepted datagram reads the marker, the sequence number and the payload besides. -/
theorem uninterpretedHeaderFieldsHaveNoEffect :
    Obligations.UninterpretedHeaderFieldsHaveNoEffect := by
  intro s d d' hl hv hb1 hb2 hb3 hp
  have hpt : payloadTypeOf d' = payloadTypeOf d :=
    congrArg (BitVec.extractLsb' 0 7) hb1.symm
  have hm : markerOf d' = markerOf d := congrArg (bitOf · 7) hb1.symm
  have hq : (fieldsOf d').seq = (fieldsOf d).seq := congrArg₂ be16 hb2.symm hb3.symm
  have hp' : payloadOf d' = payloadOf d := hp.symm
  have hst : headerStatus d' = headerStatus d := headerStatus_congr hl.symm hv.symm hpt
  by_cases h : headerStatus d = .accepted
  · obtain ⟨helems, hreport⟩ := accept_congr (classify (payloadOf d))
      (operation (markerOf d) (classify (payloadOf d))) (payloadOf d) s hq (markerOf d) (markerOf d)
    have hd' := exec_decode_of_accepted (hst.trans h) s
    rw [acceptDatagram, hm, hp'] at hd'
    exact ⟨_, _, _, _, exec_decode_of_accepted h s, hd', accept_out _ _ _ _ _ _,
      accept_out _ _ _ _ _ _, helems, hreport, congrArg (seqAnomaly s) hq, rfl, rfl⟩
  · exact ⟨_, _, _, _, exec_decode_of_rejected rfl h s, exec_decode_of_rejected hst h s,
      publish_out _ _ _, publish_out _ _ _, sameElements_refl _, ⟨rfl, rfl⟩, rfl, rfl, rfl⟩

/-! ## The operations leave the tracker alone (41_sequence_tracker.md R71) -/

theorem handOver_sameTracker (s : State) (v : Bytes) : SameTracker s (handOver s v).1 := by
  rw [handOver_fst]
  exact ⟨rfl, rfl⟩

theorem hold_sameTracker (s : State) (v : Bytes) (a : Action) : SameTracker s (hold s v a).1 := by
  rcases hold_cases s v a with ⟨_, h⟩ | ⟨_, h⟩ <;> rw [h] <;> exact ⟨rfl, rfl⟩

theorem opSps_sameTracker (s : State) (p : Bytes) : SameTracker s (opSps s p).1 := by
  rcases opSps_cases s p with ⟨_, h⟩ | ⟨_, h⟩ <;> rw [h]
  · exact ⟨rfl, rfl⟩
  · rcases updateDims_cases (spsReplace s p) (spsParse s p).1 (spsParse s p).2 with
      ⟨_, _, _, h'⟩ | ⟨_, h'⟩ <;> rw [h'] <;> exact ⟨rfl, rfl⟩

theorem opPps_sameTracker (s : State) (p : Bytes) : SameTracker s (opPps s p).1 := by
  rcases opPps_cases s p with ⟨_, h⟩ | ⟨_, h⟩ <;> rw [h] <;> exact ⟨rfl, rfl⟩

theorem opFuaMid_sameTracker (s : State) (p : Bytes) : SameTracker s (opFuaMid s p).1 := by
  cases hs : s.reState with
  | idle => rw [opFuaMid_idle s p hs]; exact ⟨rfl, rfl⟩
  | accumulating => rw [opFuaMid_accumulating s p hs]; exact hold_sameTracker s _ _

theorem opFuaEnd_sameTracker (s : State) (p : Bytes) : SameTracker s (opFuaEnd s p).1 := by
  cases hs : s.reState with
  | idle => rw [opFuaEnd_idle s p hs]; exact ⟨rfl, rfl⟩
  | accumulating => rw [opFuaEnd_accumulating s p hs]; exact handOver_sameTracker s _

theorem operation_sameTracker (m : BitVec 1) (k : Kind) (s : State) (p : Bytes) :
    SameTracker s (operation m k s p).1 := by
  cases k with
  | none | unknown => exact ⟨rfl, rfl⟩
  | sps => exact opSps_sameTracker s p
  | pps => exact opPps_sameTracker s p
  | idr | nonidr => exact handOver_sameTracker s _
  | fuaStart => exact hold_sameTracker s _ _
  | fuaCont =>
    unfold operation
    split_ifs
    · exact opFuaMid_sameTracker s p
    · exact opFuaEnd_sameTracker s p

/-- The tracker's elements after the step of an accepted datagram. -/
theorem acceptDatagram_tracker (d : Bytes) (s : State) :
    SameTracker (seqTrack s (fieldsOf d).seq) (acceptDatagram d s) :=
  operation_sameTracker _ _ _ _

/-! ## Datagrams that differ in the marker at most -/

section Marker

variable {d d' : Bytes} (h2 : d.drop 2 = d'.drop 2)
include h2

theorem byteAt_eq_of_drop_two (i : Nat) : byteAt d' (2 + i) = byteAt d (2 + i) := by
  rw [← byteAt_drop, ← byteAt_drop, h2]

theorem payloadOf_eq_of_drop_two : payloadOf d' = payloadOf d := by
  have hdrop (e : Bytes) : payloadOf e = (e.drop 2).drop 10 := by
    rw [List.drop_drop]
    rfl
  rw [hdrop, hdrop, h2]

theorem fieldsOf_eq_of_drop_two (h0 : byteAt d' 0 = byteAt d 0) : fieldsOf d' = fieldsOf d := by
  have hb := byteAt_eq_of_drop_two h2
  simp only [fieldsOf, h0, hb 0, hb 1, hb 2, hb 3, hb 4, hb 5, hb 6, hb 7, hb 8, hb 9]

end Marker

/-- Settles O20: neither the header checks nor the tracker read the marker, and the operation of a
kind other than the continuation is the same for both values of it. -/
theorem markerMattersToContinuationsOnly : Obligations.MarkerMattersToContinuationsOnly := by
  intro s d d' hl hb0 hpt h2
  have hp : payloadOf d' = payloadOf d := payloadOf_eq_of_drop_two h2
  have hf : fieldsOf d' = fieldsOf d := fieldsOf_eq_of_drop_two h2 hb0.symm
  have hv : versionOf d' = versionOf d := congrArg (BitVec.extractLsb' 6 2) hb0.symm
  have hst : headerStatus d' = headerStatus d := headerStatus_congr hl.symm hv hpt.symm
  by_cases h : headerStatus d = .accepted
  · have htracker : SameTracker (acceptDatagram d s) (acceptDatagram d' s) := by
      obtain ⟨hseq, hcount⟩ := acceptDatagram_tracker d s
      obtain ⟨hseq', hcount'⟩ := acceptDatagram_tracker d' s
      rw [hf] at hseq' hcount'
      exact ⟨hseq'.trans hseq.symm, hcount'.trans hcount.symm⟩
    refine ⟨_, _, _, _, exec_decode_of_accepted h s, exec_decode_of_accepted (hst.trans h) s,
      accept_out _ _ _ _ _ _, accept_out _ _ _ _ _ _, rfl, congrArg classify hp.symm, htracker,
      congrArg (fun f : RtpFields => seqAnomaly s f.seq) hf.symm,
      fun (hk : classify (payloadOf d) ≠ .fuaCont) => ?_⟩
    have hsame : acceptDatagram d' s = accept (classify (payloadOf d))
        (operation (markerOf d) (classify (payloadOf d))) (markerOf d') (fieldsOf d) (payloadOf d)
        s := by
      rw [acceptDatagram, hp, hf, operation_marker hk (markerOf d') (markerOf d)]
    rw [hsame]
    exact accept_congr _ _ _ s rfl _ _
  · exact ⟨_, _, _, _, exec_decode_of_rejected rfl h s, exec_decode_of_rejected hst h s,
      publish_out _ _ _, publish_out _ _ _, rfl, rfl, ⟨rfl, rfl⟩, rfl,
      fun _ => ⟨sameElements_refl _, rfl, rfl⟩⟩

end Sys2Proof.Machine

/-! The sequence tracker (41_sequence_tracker.md): it runs on every accepted datagram and on no other,
and what it holds reaches neither the operations nor what they report. -/

namespace Sys2Proof.Machine

/-! ## The step of an instruction (40_rtp_header.md R56, R61) -/

theorem hdrStatus_ne_accepted_of_seqOf {i : Instr} (h : seqOf i = none) :
    i.op.hdrStatus ≠ .accepted := by
  cases i with
  | rejShort | rejPt | rejVersion => exact HdrStatus.noConfusion
  | _ => cases h

/-- An instruction with a sequence number runs the operation of its kind behind the tracker. -/
theorem exec_of_seqOf {i : Instr} {q : U16} (h : seqOf i = some q) :
    ∃ m f p, f.seq = q ∧
      ∀ s, exec i s = .next (accept i.op.kind (operation m i.op.kind) m f p s) := by
  cases i with
  | rejShort | rejPt | rejVersion => cases h
  | nalNonidr m f | nalIdr m f | nalSps m f | nalPps m f | fuaStart m f | nalUnknown m f =>
    exact ⟨m, f, _, Option.some.inj h, fun _ => rfl⟩
  | fuaMid f => exact ⟨0, f, _, Option.some.inj h, fun _ => rfl⟩
  | fuaEnd f => exact ⟨1, f, _, Option.some.inj h, fun _ => rfl⟩

/-! ## What the tracker records and what it expected (41_sequence_tracker.md R68 to R70) -/

theorem seqAnomaly_of_none {s : State} (h : s.seqLast = none) (q : U16) : seqAnomaly s q = false := by
  simp [seqAnomaly, seqExpected, h]

theorem seqAnomaly_of_some {s : State} {n : U16} (h : s.seqLast = some n) (q : U16) :
    seqAnomaly s q = decide (q ≠ n + 1) := by
  simp [seqAnomaly, seqExpected, h, bne, beq_eq_decide]

theorem tracked_seqTrack (s : State) (q : U16) : Tracked s (seqTrack s q) q := by
  refine ⟨rfl, ?_⟩
  rw [seqTrack_anomalyCount]
  cases h : s.seqLast with
  | none => simp [seqAnomaly_of_none h]
  | some n => simp [seqAnomaly_of_some h]

theorem tracked_of_sameTracker {s t u : State} {q : U16} (h : Tracked s t q)
    (hsame : SameTracker t u) : Tracked s u q := by
  obtain ⟨hlast, hcount⟩ := h
  obtain ⟨hlast', hcount'⟩ := hsame
  exact ⟨hlast'.trans hlast, hcount'.trans hcount⟩

theorem accept_operation_tracked (k : Kind) (m : BitVec 1) (f : RtpFields) (p : Bytes)
    (s : State) : Tracked s (accept k (operation m k) m f p s) f.seq :=
  tracked_of_sameTracker (tracked_seqTrack s f.seq) (operation_sameTracker m k _ p)

/-- Settles O23: an instruction without a sequence number is a rejection, which writes the ports alone;
every other runs the tracker, whose elements its operation keeps. -/
theorem trackerRunsOnEveryAcceptedDatagram : Obligations.TrackerRunsOnEveryAcceptedDatagram := by
  intro i s
  cases hq : seqOf i with
  | none =>
    have hst := hdrStatus_ne_accepted_of_seqOf hq
    exact ⟨_, _, exec_of_rejected hst s, publish_out _ _ _, ⟨rfl, rfl⟩, hst⟩
  | some q =>
    obtain ⟨m, f, p, rfl, hexec⟩ := exec_of_seqOf hq
    refine ⟨_, _, hexec s, accept_out _ _ _ _ _ _, rfl, accept_operation_tracked _ m f p s, ?_⟩
    cases hlast : s.seqLast with
    | none => simp [acceptedOut, seqExpected, hlast, seqAnomaly_of_none hlast]
    | some n => simp [acceptedOut, seqExpected, hlast, seqAnomaly_of_some hlast]

/-! ## A state with another tracker -/

/-- The state with the tracker's elements replaced. -/
def setTracker (s : State) (last : Option U16) (count : U32) : State :=
  { s with seqLast := last, anomalyCount := count }

/-- The result of an operation with the tracker's elements of its state replaced. -/
def setTrackerFst (last : Option U16) (count : U32) (res : State × Report) : State × Report :=
  (setTracker res.1 last count, res.2)

theorem seqTrack_eq_setTracker (s : State) (q : U16) :
    seqTrack s q = setTracker s (some q) (seqTrack s q).anomalyCount := rfl

theorem seqTrack_setTracker (s : State) (last : Option U16) (count : U32) (q : U16) :
    seqTrack (setTracker s last count) q =
      setTracker s (some q) (seqTrack (setTracker s last count) q).anomalyCount := rfl

/-! ## The operations do not read the tracker (41_sequence_tracker.md R71) -/

section Operations

variable (s : State) (last : Option U16) (count : U32)

theorem handOver_setTracker (v : Bytes) :
    handOver (setTracker s last count) v = setTrackerFst last count (handOver s v) := by
  unfold handOver
  rw [apply_ite (setTrackerFst last count)]
  rfl

theorem hold_setTracker (v : Bytes) (a : Action) :
    hold (setTracker s last count) v a = setTrackerFst last count (hold s v a) := by
  unfold hold
  rw [apply_ite (setTrackerFst last count)]
  rfl

theorem updateDims_setTracker (w h : Nat) :
    updateDims (setTracker s last count) w h = setTrackerFst last count (updateDims s w h) := by
  unfold updateDims
  rw [apply_ite (setTrackerFst last count)]
  rfl

theorem opSps_setTracker (p : Bytes) :
    opSps (setTracker s last count) p = setTrackerFst last count (opSps s p) := by
  rcases opSps_cases s p with ⟨hl, h⟩ | ⟨hl, h⟩
  · rw [h]
    exact if_pos hl
  · rw [h, ← updateDims_setTracker]
    exact if_neg (Nat.not_lt.2 hl)

theorem opPps_setTracker (p : Bytes) :
    opPps (setTracker s last count) p = setTrackerFst last count (opPps s p) := by
  unfold opPps
  rw [apply_ite (setTrackerFst last count)]
  rfl

theorem opIdr_setTracker (p : Bytes) :
    opIdr (setTracker s last count) p = setTrackerFst last count (opIdr s p) :=
  congrArg (beginning s) (handOver_setTracker s last count _)

theorem opNonidr_setTracker (p : Bytes) :
    opNonidr (setTracker s last count) p = setTrackerFst last count (opNonidr s p) :=
  congrArg (beginning s) (handOver_setTracker s last count _)

theorem opFuaStart_setTracker (p : Bytes) :
    opFuaStart (setTracker s last count) p = setTrackerFst last count (opFuaStart s p) :=
  congrArg (beginning s) (hold_setTracker s last count _ _)

theorem opFuaMid_setTracker (p : Bytes) :
    opFuaMid (setTracker s last count) p = setTrackerFst last count (opFuaMid s p) := by
  cases hs : s.reState with
  | idle => rw [opFuaMid_idle s p hs]; exact opFuaMid_idle (setTracker s last count) p hs
  | accumulating =>
    rw [opFuaMid_accumulating s p hs, ← hold_setTracker]
    exact opFuaMid_accumulating (setTracker s last count) p hs

theorem opFuaEnd_setTracker (p : Bytes) :
    opFuaEnd (setTracker s last count) p = setTrackerFst last count (opFuaEnd s p) := by
  cases hs : s.reState with
  | idle => rw [opFuaEnd_idle s p hs]; exact opFuaEnd_idle (setTracker s last count) p hs
  | accumulating =>
    rw [opFuaEnd_accumulating s p hs, ← handOver_setTracker]
    exact opFuaEnd_accumulating (setTracker s last count) p hs

theorem operation_setTracker (m : BitVec 1) (k : Kind) (p : Bytes) :
    operation m k (setTracker s last count) p =
      setTrackerFst last count (operation m k s p) := by
  cases k with
  | none | unknown => rfl
  | sps => exact opSps_setTracker s last count p
  | pps => exact opPps_setTracker s last count p
  | idr => exact opIdr_setTracker s last count p
  | nonidr => exact opNonidr_setTracker s last count p
  | fuaStart => exact opFuaStart_setTracker s last count p
  | fuaCont =>
    unfold operation
    split_ifs
    · exact opFuaMid_setTracker s last count p
    · exact opFuaEnd_setTracker s last count p

/-- Where the tracker of the starting state is replaced, the step of an accepted datagram differs in
the tracker's elements and in what its record says of them. -/
theorem accept_setTracker (k : Kind) (m : BitVec 1) (f : RtpFields) (p : Bytes) :
    let t := accept k (operation m k) m f p s
    let t' := accept k (operation m k) m f p (setTracker s last count)
    SameReassembler t t' ∧ SameCache t t' ∧ SameReport t t' := by
  unfold accept
  rw [seqTrack_setTracker, seqTrack_eq_setTracker s, operation_setTracker, operation_setTracker]
  exact ⟨⟨rfl, rfl⟩, ⟨rfl, rfl, rfl, rfl⟩, rfl, rfl⟩

end Operations

/-- Settles O25: the tracker overwrites its elements, and every operation takes states that differ in
them only to states that differ in them only, with the same report; a rejection keeps every element. -/
theorem anomaliesDoNotReachTheReassembler : Obligations.AnomaliesDoNotReachTheReassembler := by
  intro i s last count
  cases hq : seqOf i with
  | none =>
    have hst := hdrStatus_ne_accepted_of_seqOf hq
    exact ⟨_, _, exec_of_rejected hst s, exec_of_rejected hst _, ⟨rfl, rfl⟩, ⟨rfl, rfl, rfl, rfl⟩,
      rfl, rfl⟩
  | some q =>
    obtain ⟨m, f, p, -, hexec⟩ := exec_of_seqOf hq
    exact ⟨_, _, hexec s, hexec (setTracker s last count), accept_setTracker s last count _ m f p⟩

end Sys2Proof.Machine

/-! The parameter-set cache (42_parameter_sets.md): an SPS and a PPS each replace their own buffer
or are dropped, and no other instruction touches the cache or the dimensions. -/

namespace Sys2Proof.Machine

/-! ## Instructions other than an SPS and a PPS (42_parameter_sets.md R86) -/

/-- Every way a step can go, other than those of an SPS and a PPS, is made of updates of the
tracker, the reassembler and the ports. -/
theorem effect_sameCache {s t : State} {i : Instr} (h : Effect s i t) (hsps : i.op ≠ .nalSps)
    (hpps : i.op ≠ .nalPps) : SameCache s t := by
  cases h with
  | spsDropped | spsNewDims | spsSameDims => exact absurd rfl hsps
  | ppsDropped | ppsCached => exact absurd rfl hpps
  | rejShort | rejPt | rejVersion | unknown | orphan | overflow | emitted | noRes | held =>
    exact ⟨rfl, rfl, rfl, rfl⟩

/-- Settles O30: every instruction completes, and its effect keeps the cache. -/
theorem parameterSetStatePersists : Obligations.ParameterSetStatePersists := by
  intro i s hsps hpps
  obtain ⟨t, hexec, heffect⟩ := exec_effect s i
  exact ⟨t, hexec, effect_sameCache heffect hsps hpps⟩

/-! ## The SPS and the PPS (42_parameter_sets.md R79, R81, R84) -/

/-- Settles O26, by the three ways an SPS can go: dropped, cached with new dimensions,
cached alone. -/
theorem spsReplacesTheCacheAndUpdatesTheDimensions :
    Obligations.SpsReplacesTheCacheAndUpdatesTheDimensions := by
  intro m f nri body s p w h
  have hrun : Tracked s (seqTrack s f.seq) f.seq := tracked_seqTrack s f.seq
  rcases exec_nalSps_cases s m f nri body with
    ⟨(hlong : s.params.spsMaxBytes < p.length), hexec⟩ |
    ⟨(hfits : p.length ≤ s.params.spsMaxBytes), hw, hh, hnew, hexec⟩ |
    ⟨(hfits : p.length ≤ s.params.spsMaxBytes),
      (hsame : ¬ (w ≠ 0 ∧ h ≠ 0 ∧ (w ≠ s.width ∨ h ≠ s.height))), hexec⟩
  · refine ⟨_, hexec, rfl, tracked_of_sameTracker hrun ⟨rfl, rfl⟩, ⟨rfl, rfl⟩, ⟨rfl, rfl, rfl⟩,
      rfl, ?_⟩
    rw [if_pos hlong]
    exact ⟨⟨rfl, rfl, rfl, rfl⟩, rfl⟩
  · refine ⟨_, hexec, rfl, tracked_of_sameTracker hrun ⟨rfl, rfl⟩, ⟨rfl, rfl⟩, ⟨rfl, rfl, rfl⟩,
      rfl, ?_⟩
    rw [if_neg (Nat.not_lt.2 hfits), if_pos ⟨hw, hh, hnew⟩]
    exact ⟨rfl, rfl, rfl, rfl⟩
  · refine ⟨_, hexec, rfl, tracked_of_sameTracker hrun ⟨rfl, rfl⟩, ⟨rfl, rfl⟩, ⟨rfl, rfl, rfl⟩,
      rfl, ?_⟩
    rw [if_neg (Nat.not_lt.2 hfits), if_neg hsame]
    exact ⟨rfl, rfl, rfl, rfl⟩

/-- Settles O27, by the two ways a PPS can go: dropped or cached. -/
theorem ppsReplacesTheCache : Obligations.PpsReplacesTheCache := by
  intro m f nri body s p
  have hrun : Tracked s (seqTrack s f.seq) f.seq := tracked_seqTrack s f.seq
  rcases exec_nalPps_cases s m f nri body with
    ⟨(hlong : s.params.ppsMaxBytes < p.length), hexec⟩ |
    ⟨(hfits : p.length ≤ s.params.ppsMaxBytes), hexec⟩
  · refine ⟨_, hexec, rfl, tracked_of_sameTracker hrun ⟨rfl, rfl⟩, ⟨rfl, rfl⟩, ⟨rfl, rfl, rfl⟩, rfl,
      rfl, rfl, ?_⟩
    rw [if_pos hlong]
    exact ⟨rfl, rfl⟩
  · refine ⟨_, hexec, rfl, tracked_of_sameTracker hrun ⟨rfl, rfl⟩, ⟨rfl, rfl⟩, ⟨rfl, rfl, rfl⟩, rfl,
      rfl, rfl, ?_⟩
    rw [if_neg (Nat.not_lt.2 hfits)]
    exact ⟨rfl, rfl⟩

/-! ## The bounds of the two buffers (42_parameter_sets.md R82) -/

/-- Settles O28: the two sides of the length check in O26 and O27; a length equal to the bound is on
the side that is cached. -/
theorem parameterSetsBeyondTheirBoundAreDropped :
    Obligations.ParameterSetsBeyondTheirBoundAreDropped := by
  intro m f nri body s
  obtain ⟨t, hsps, -, -, -, -, -, hcaseSps⟩ :=
    spsReplacesTheCacheAndUpdatesTheDimensions m f nri body s
  obtain ⟨u, hpps, -, -, -, -, hspsBuf, hwidth, hheight, hcasePps⟩ :=
    ppsReplacesTheCache m f nri body s
  refine ⟨fun hlong => ⟨t, hsps, ?_⟩, fun hexact => ⟨t, hsps, ?_⟩, fun hlong => ⟨u, hpps, ?_⟩,
    fun hexact => ⟨u, hpps, ?_⟩⟩
  · rw [List.length_cons, if_pos hlong] at hcaseSps
    exact hcaseSps
  · rw [List.length_cons, if_neg hexact.not_gt] at hcaseSps
    exact hcaseSps.1
  · rw [List.length_cons, if_pos hlong] at hcasePps
    obtain ⟨hppsBuf, hreport⟩ := hcasePps
    exact ⟨⟨hspsBuf, hppsBuf, hwidth, hheight⟩, hreport⟩
  · rw [List.length_cons, if_neg hexact.not_gt] at hcasePps
    exact hcasePps.1

end Sys2Proof.Machine

/-! The NAL reassembler (43_reassembler.md): what the instructions that write the buffer, and the
continuations that find no access unit in progress, make of the state and report. -/

namespace Sys2Proof.Machine

section Step

variable {s t : State} {i : Instr}

/-! ## What every instruction of the reassembler keeps -/

/-- Every way a step can go is made of updates of the block's own elements and the ports. -/
theorem effect_sameSurround (h : Effect s i t) : SameSurround s t := by
  cases h with
  | rejShort | rejPt | rejVersion | unknown | spsDropped | spsNewDims | spsSameDims | ppsDropped
  | ppsCached | orphan | overflow | emitted | noRes | held => exact ⟨rfl, rfl, rfl⟩

theorem tracked_of_exec {q : U16} (hq : seqOf i = some q) (h : exec i s = .next t) :
    Tracked s t q := by
  obtain ⟨m, f, p, rfl, hexec⟩ := exec_of_seqOf hq
  cases h.symm.trans (hexec s)
  exact accept_operation_tracked _ m f p s

/-- An accepted datagram other than an SPS and a PPS runs the tracker and keeps the cache, the
dimensions and the surround; the rest of its effect is on the reassembler and the ports. -/
theorem exec_reassembler (s : State) {q : U16} (hq : seqOf i = some q) (hsps : i.op ≠ .nalSps)
    (hpps : i.op ≠ .nalPps) :
    ∃ t, exec i s = .next t ∧ Effect s i t ∧ Tracked s t q ∧ SameCache s t ∧ SameSurround s t := by
  obtain ⟨t, hexec, heffect⟩ := exec_effect s i
  exact ⟨t, hexec, heffect, tracked_of_exec hq hexec, effect_sameCache heffect hsps hpps,
    effect_sameSurround heffect⟩

/-! ## Continuations in `Idle` (43_reassembler.md R98) -/

theorem auWrite_eq_none_of_idle (hop : i.op = .fuaMid ∨ i.op = .fuaEnd) (hs : s.reState = .idle) :
    auWrite i s = none := by
  cases i with
  | fuaMid | fuaEnd => simp [auWrite, hs]
  | _ => rcases hop with h | h <;> cases h

/-- A continuation in `Idle` runs the tracker and reports the orphan, and does nothing else. -/
theorem exec_orphan (hop : i.op = .fuaMid ∨ i.op = .fuaEnd) (hs : s.reState = .idle) :
    ∃ m f p, exec i s = .next (publish (seqTrack s f.seq)
      (acceptedOut s m f p .fuaCont { action := .orphanDropped }) none) := by
  cases i with
  | fuaMid f ind e r typ frag => exact ⟨0, f, _, exec_fuaMid_idle s f ind e r typ frag hs⟩
  | fuaEnd f ind e r typ frag => exact ⟨1, f, _, exec_fuaEnd_idle s f ind e r typ frag hs⟩
  | _ => rcases hop with h | h <;> cases h

theorem orphan_of_exec (hop : i.op = .fuaMid ∨ i.op = .fuaEnd) (hs : s.reState = .idle)
    (h : exec i s = .next t) : SameReassembler s t ∧ t.frameOut = none ∧
      Reports t ⟨.accepted, .fuaCont, .orphanDropped, false, false, 0⟩ := by
  obtain ⟨m, f, p, hexec⟩ := exec_orphan hop hs
  cases h.symm.trans hexec
  exact ⟨⟨rfl, rfl⟩, rfl, rfl⟩

/-! ## Writes of the buffer (43_reassembler.md R102, R103; 44_frame_boundary.md R108) -/

/-- Everything an instruction that writes the buffer can do: overflow, the two outcomes of a complete
access unit, and one left in progress. -/
theorem effect_of_auWrite {v : Bytes} (h : Effect s i t) (hv : auWrite i s = some v) :
    ∃ m f p,
      let after (u : State) (r : Report) (fr : Option Frame) : State :=
        publish u (acceptedOut s m f p i.op.kind
          { r with auAbandoned := begins i.op && decide (s.reState = .accumulating) }) fr
      (s.params.auMaxBytes < v.length ∧
        t = after (auClear (seqTrack s f.seq))
          { action := .auOverflow, attemptedLen := v.length } none) ∨
      (v.length ≤ s.params.auMaxBytes ∧ completes i.op = true ∧ (0 < s.width ∧ 0 < s.height) ∧
        t = after (auClear (seqTrack s f.seq)) { action := .emitted } (some (frameOf s v))) ∨
      (v.length ≤ s.params.auMaxBytes ∧ completes i.op = true ∧ ¬ (0 < s.width ∧ 0 < s.height) ∧
        t = after (auClear (seqTrack s f.seq)) { action := .auDroppedNoRes } none) ∨
      (v.length ≤ s.params.auMaxBytes ∧ completes i.op = false ∧
        t = after (auReplace (seqTrack s f.seq) v)
          { action := if begins i.op then .auStarted else .auAppended } none) := by
  cases h with
  | rejShort | rejPt | rejVersion | unknown | spsDropped | spsNewDims | spsSameDims | ppsDropped
  | ppsCached => cases hv
  | orphan _ m f p hs hi =>
    have hop : i.op = .fuaMid ∨ i.op = .fuaEnd := by
      rcases hi with ⟨_, _, _, _, _, rfl, -, -⟩ | ⟨_, _, _, _, _, rfl, -, -⟩
      · exact .inl rfl
      · exact .inr rfl
    cases hv.symm.trans (auWrite_eq_none_of_idle hop hs)
  | overflow _ m f p _ hv' _ hl =>
    cases hv.symm.trans hv'
    exact ⟨m, f, p, .inl ⟨hl, rfl⟩⟩
  | emitted _ m f p _ hv' _ hc hl hw hh =>
    cases hv.symm.trans hv'
    exact ⟨m, f, p, .inr (.inl ⟨hl, hc, ⟨hw, hh⟩, rfl⟩)⟩
  | noRes _ m f p _ hv' _ hc hl hd =>
    cases hv.symm.trans hv'
    exact ⟨m, f, p, .inr (.inr (.inl ⟨hl, hc, hd, rfl⟩))⟩
  | held _ m f p _ hv' _ hc hl =>
    cases hv.symm.trans hv'
    exact ⟨m, f, p, .inr (.inr (.inr ⟨hl, hc, rfl⟩))⟩

theorem handedOver_of_effect {v : Bytes} (h : Effect s i t) (hv : auWrite i s = some v)
    (hc : completes i.op = true) :
    HandedOver s t i.op.kind (begins i.op && decide (s.reState = .accumulating)) v := by
  obtain ⟨m, f, p, ⟨hl, rfl⟩ | ⟨hl, -, hdims, rfl⟩ | ⟨hl, -, hdims, rfl⟩ | ⟨-, hc', -⟩⟩ :=
    effect_of_auWrite h hv
  · refine ⟨rfl, rfl, ?_⟩
    rw [if_pos hl]
    exact ⟨rfl, rfl⟩
  · refine ⟨rfl, rfl, ?_⟩
    rw [if_neg hl.not_gt, if_neg (by omega)]
    exact ⟨rfl, rfl⟩
  · refine ⟨rfl, rfl, ?_⟩
    rw [if_neg hl.not_gt, if_pos (by omega)]
    exact ⟨rfl, rfl⟩
  · cases hc.symm.trans hc'

theorem held_of_effect {v : Bytes} (h : Effect s i t) (hv : auWrite i s = some v)
    (hc : completes i.op = false) :
    Held s t i.op.kind (if begins i.op then .auStarted else .auAppended)
      (begins i.op && decide (s.reState = .accumulating)) v := by
  obtain ⟨m, f, p, ⟨hl, rfl⟩ | ⟨-, hc', -⟩ | ⟨-, hc', -⟩ | ⟨hl, -, rfl⟩⟩ := effect_of_auWrite h hv
  · refine ⟨rfl, ?_⟩
    rw [if_pos hl]
    exact ⟨rfl, rfl, rfl⟩
  · cases hc.symm.trans hc'
  · cases hc.symm.trans hc'
  · refine ⟨rfl, ?_⟩
    rw [if_neg hl.not_gt]
    exact ⟨rfl, rfl, rfl⟩

/-! ## Abandonment (43_reassembler.md R90) -/

theorem effect_auAbandoned (h : Effect s i t) :
    ∃ o, t.out = some o ∧
      o.auAbandoned = (begins i.op && decide (s.reState = .accumulating)) := by
  cases h with
  | orphan _ m f p hs hi =>
    refine ⟨_, publish_out _ _ _, ?_⟩
    rw [hs, decide_eq_false ReState.noConfusion, Bool.and_false]
    rfl
  | rejShort | rejPt | rejVersion | unknown | spsDropped | spsNewDims | spsSameDims | ppsDropped
  | ppsCached | overflow | emitted | noRes | held => exact ⟨_, publish_out _ _ _, rfl⟩

end Step

/-! ## The buffer's old bytes do not reach a write that replaces them -/

theorem handOver_auBuf (s : State) (b v : Bytes) :
    handOver { s with auBuf := b } v = handOver s v := rfl

theorem hold_auBuf (s : State) (b v : Bytes) (a : Action) :
    hold { s with auBuf := b } v a = hold s v a := rfl

theorem opIdr_auBuf (s : State) (b p : Bytes) : opIdr { s with auBuf := b } p = opIdr s p :=
  congrArg (beginning s) (handOver_auBuf s b _)

theorem opNonidr_auBuf (s : State) (b p : Bytes) :
    opNonidr { s with auBuf := b } p = opNonidr s p :=
  congrArg (beginning s) (handOver_auBuf s b _)

theorem opFuaStart_auBuf (s : State) (b p : Bytes) :
    opFuaStart { s with auBuf := b } p = opFuaStart s p :=
  congrArg (beginning s) (hold_auBuf s b _ _)

/-- Where the operation does not read the buffer's old bytes, neither does the step. -/
theorem accept_auBuf {op : State → Bytes → State × Report}
    (hop : ∀ s b p, op { s with auBuf := b } p = op s p) (k : Kind) (m : BitVec 1) (f : RtpFields)
    (p : Bytes) (s : State) (b : Bytes) :
    accept k op m f p { s with auBuf := b } = accept k op m f p s := by
  have htrack : op (seqTrack { s with auBuf := b } f.seq) p = op (seqTrack s f.seq) p :=
    hop (seqTrack s f.seq) b p
  unfold accept
  rw [htrack]
  rfl

/-! ## The statements -/

/-- Settles O36: an orphan's effect is the tracker's and the record's. -/
theorem orphanContinuationsAreDiscarded : Obligations.OrphanContinuationsAreDiscarded := by
  intro i s hop hs
  obtain ⟨m, f, p, hexec⟩ := exec_orphan hop hs
  exact ⟨_, hexec, ⟨rfl, rfl⟩, ⟨rfl, rfl, rfl, rfl⟩, rfl, rfl⟩

/-- Settles O37, by the four ways a write of the buffer can go, of which only the first overflows. -/
theorem overflowDiscardsTheAccessUnit : Obligations.OverflowDiscardsTheAccessUnit := by
  intro i s v hv
  obtain ⟨t, hexec, heffect⟩ := exec_effect s i
  obtain ⟨m, f, p, ⟨hl, rfl⟩ | ⟨hl, -, -, rfl⟩ | ⟨hl, -, -, rfl⟩ | ⟨hl, -, rfl⟩⟩ :=
    effect_of_auWrite heffect hv
  · refine ⟨_, _, hexec, publish_out _ _ _, ?_⟩
    rw [if_pos hl]
    exact ⟨rfl, rfl, rfl, rfl, rfl⟩
  · refine ⟨_, _, hexec, publish_out _ _ _, ?_⟩
    rw [if_neg hl.not_gt]
    exact ⟨Action.noConfusion, rfl⟩
  · refine ⟨_, _, hexec, publish_out _ _ _, ?_⟩
    rw [if_neg hl.not_gt]
    exact ⟨Action.noConfusion, rfl⟩
  · refine ⟨_, _, hexec, publish_out _ _ _, ?_⟩
    rw [if_neg hl.not_gt]
    have haction : (if begins i.op then Action.auStarted else .auAppended) ≠ .auOverflow := by
      split <;> exact Action.noConfusion
    exact ⟨haction, rfl⟩

/-- Settles O39: every effect reports the abandonment of R90, and the three operations that begin an
access unit replace the buffer whole. -/
theorem newAccessUnitsAbandonTheOldOne : Obligations.NewAccessUnitsAbandonTheOldOne := by
  intro i s
  constructor
  · obtain ⟨t, hexec, heffect⟩ := exec_effect s i
    obtain ⟨o, hout, habandoned⟩ := effect_auAbandoned heffect
    exact ⟨t, o, hexec, hout, by rw [habandoned, Bool.and_eq_true, decide_eq_true_iff]⟩
  · intro hbegins b
    cases i with
    | nalIdr m f => exact congrArg Host.Outcome.next (accept_auBuf opIdr_auBuf _ m f _ s b)
    | nalNonidr m f => exact congrArg Host.Outcome.next (accept_auBuf opNonidr_auBuf _ m f _ s b)
    | fuaStart m f => exact congrArg Host.Outcome.next (accept_auBuf opFuaStart_auBuf _ m f _ s b)
    | _ => cases hbegins

/-- Settles O31: the slice behind the cached parameter sets is a complete access unit. -/
theorem idrSliceCompletesAnAccessUnit : Obligations.IdrSliceCompletesAnAccessUnit := by
  intro m f nri body s
  obtain ⟨t, hexec, heffect, htracked, hcache, hsurround⟩ :=
    exec_reassembler (i := .nalIdr m f nri body) s rfl Op.noConfusion Op.noConfusion
  exact ⟨t, hexec, htracked, hcache, hsurround, handedOver_of_effect heffect rfl rfl⟩

/-- Settles O32: the slice behind one start code is a complete access unit. -/
theorem nonIdrSliceCompletesAnAccessUnit : Obligations.NonIdrSliceCompletesAnAccessUnit := by
  intro m f nri body s
  obtain ⟨t, hexec, heffect, htracked, hcache, hsurround⟩ :=
    exec_reassembler (i := .nalNonidr m f nri body) s rfl Op.noConfusion Op.noConfusion
  exact ⟨t, hexec, htracked, hcache, hsurround, handedOver_of_effect heffect rfl rfl⟩

/-- Settles O33: a start fragment's write is never complete, so it is held. -/
theorem startFragmentBeginsAnAccessUnit : Obligations.StartFragmentBeginsAnAccessUnit := by
  intro m f ind e r typ frag s
  obtain ⟨t, hexec, heffect, htracked, hcache, hsurround⟩ :=
    exec_reassembler (i := .fuaStart m f ind e r typ frag) s rfl Op.noConfusion Op.noConfusion
  exact ⟨t, hexec, htracked, hcache, hsurround, held_of_effect heffect rfl rfl⟩

/-- Settles O34: an orphan in `Idle`; while `Accumulating`, a write that is held. -/
theorem middleFragmentAppendsItsBytes : Obligations.MiddleFragmentAppendsItsBytes := by
  intro f ind e r typ frag s
  obtain ⟨t, hexec, heffect, htracked, hcache, hsurround⟩ :=
    exec_reassembler (i := .fuaMid f ind e r typ frag) s rfl Op.noConfusion Op.noConfusion
  refine ⟨t, hexec, htracked, hcache, hsurround, ?_⟩
  cases hs : s.reState with
  | idle => exact orphan_of_exec (.inl rfl) hs hexec
  | accumulating => exact held_of_effect heffect (if_pos hs) rfl

/-- Settles O35: an orphan in `Idle`; while `Accumulating`, a write that completes. -/
theorem endFragmentCompletesTheAccessUnit : Obligations.EndFragmentCompletesTheAccessUnit := by
  intro f ind e r typ frag s
  obtain ⟨t, hexec, heffect, htracked, hcache, hsurround⟩ :=
    exec_reassembler (i := .fuaEnd f ind e r typ frag) s rfl Op.noConfusion Op.noConfusion
  refine ⟨t, hexec, htracked, hcache, hsurround, ?_⟩
  cases hs : s.reState with
  | idle => exact orphan_of_exec (.inr rfl) hs hexec
  | accumulating => exact handedOver_of_effect heffect (if_pos hs) rfl

end Sys2Proof.Machine

/-! The frame boundary (44_frame_boundary.md): which steps complete an access unit, and what leaves on
the frame port in them. -/

namespace Sys2Proof.Machine

/-- Instruction `i` completes the access unit `v` in state `s`: its write is one of the three that
complete, and it fits (44_frame_boundary.md R106). -/
def CompletesAs (s : State) (i : Instr) (v : Bytes) : Prop :=
  completes i.op = true ∧ auWrite i s = some v ∧ v.length ≤ s.params.auMaxBytes

section FrameBoundary

variable {s t : State} {i : Instr}

/-! ## Steps that complete no access unit -/

theorem not_completesAs_of_auWrite_eq_none (hw : auWrite i s = none) (v : Bytes) :
    ¬ CompletesAs s i v := by
  rintro ⟨-, hv, -⟩
  cases hw.symm.trans hv

theorem not_completesAs_of_completes_eq_false (hc : completes i.op = false) (v : Bytes) :
    ¬ CompletesAs s i v := by
  rintro ⟨hc', -, -⟩
  cases hc.symm.trans hc'

theorem not_completesAs_of_auOverflow {w : Bytes} (hw : auWrite i s = some w)
    (hl : s.params.auMaxBytes < w.length) (v : Bytes) : ¬ CompletesAs s i v := by
  rintro ⟨-, hv, hfit⟩
  cases hw.symm.trans hv
  exact hl.not_ge hfit

/-! ## What a step shows at the frame boundary -/

/-- A step completes an access unit with the dimensions known, completes one without them, or completes
none; the frame and the action tell which (44_frame_boundary.md R107, R109). -/
theorem effect_frameBoundary (h : Effect s i t) : ∃ o, t.out = some o ∧
    ((∃ v, CompletesAs s i v ∧ (0 < s.width ∧ 0 < s.height) ∧
        t.frameOut = some (frameOf s v) ∧ o.action = .emitted) ∨
      (∃ v, CompletesAs s i v ∧ ¬ (0 < s.width ∧ 0 < s.height) ∧
        t.frameOut = none ∧ o.action = .auDroppedNoRes) ∨
      ((∀ v, ¬ CompletesAs s i v) ∧
        t.frameOut = none ∧ o.action ≠ .emitted ∧ o.action ≠ .auDroppedNoRes)) := by
  cases h with
  | rejShort | rejPt | rejVersion | unknown | spsDropped | spsNewDims | spsSameDims | ppsDropped
  | ppsCached =>
    exact ⟨_, publish_out _ _ _, .inr (.inr ⟨not_completesAs_of_auWrite_eq_none rfl, rfl,
      Action.noConfusion, Action.noConfusion⟩)⟩
  | orphan _ m f p hs hi =>
    have hop : i.op = .fuaMid ∨ i.op = .fuaEnd := by
      rcases hi with ⟨_, _, _, _, _, rfl, -, -⟩ | ⟨_, _, _, _, _, rfl, -, -⟩
      · exact .inl rfl
      · exact .inr rfl
    exact ⟨_, publish_out _ _ _, .inr (.inr
      ⟨not_completesAs_of_auWrite_eq_none (auWrite_eq_none_of_idle hop hs), rfl,
        Action.noConfusion, Action.noConfusion⟩)⟩
  | overflow _ m f p v hv _ hl =>
    exact ⟨_, publish_out _ _ _, .inr (.inr ⟨not_completesAs_of_auOverflow hv hl, rfl,
      Action.noConfusion, Action.noConfusion⟩)⟩
  | emitted _ m f p v hv _ hc hl hw hh =>
    exact ⟨_, publish_out _ _ _, .inl ⟨v, ⟨hc, hv, hl⟩, ⟨hw, hh⟩, rfl, rfl⟩⟩
  | noRes _ m f p v hv _ hc hl hd =>
    exact ⟨_, publish_out _ _ _, .inr (.inl ⟨v, ⟨hc, hv, hl⟩, hd, rfl, rfl⟩)⟩
  | held _ m f p v _ _ hc =>
    have haction : ∀ b : Bool, (if b then Action.auStarted else .auAppended) ≠ .emitted ∧
        (if b then Action.auStarted else .auAppended) ≠ .auDroppedNoRes := by decide
    exact ⟨_, publish_out _ _ _, .inr (.inr
      ⟨not_completesAs_of_completes_eq_false hc, rfl, haction _⟩)⟩

end FrameBoundary

/-! ## The statements -/

/-- Settles O42: of the three outcomes at the boundary only the first has a frame, and a completed
access unit has the first or the second, as the dimensions say. -/
theorem emissionNeedsKnownDimensions : Obligations.EmissionNeedsKnownDimensions := by
  intro i s
  obtain ⟨t, hexec, heffect⟩ := exec_effect s i
  obtain ⟨o, hout, ⟨w, ⟨-, hw, -⟩, hdims, hframe, haction⟩ | ⟨w, -, hdims, hframe, haction⟩ |
    ⟨hnone, hframe, -⟩⟩ := effect_frameBoundary heffect
  · refine ⟨t, o, hexec, hout, fun _ _ => hdims, fun v _ hv _ => ?_⟩
    cases hw.symm.trans hv
    rw [if_pos hdims]
    exact ⟨hframe, haction⟩
  · refine ⟨t, o, hexec, hout, fun fr hfr => ?_, fun v _ _ _ => ?_⟩
    · cases hframe.symm.trans hfr
    · rw [if_neg hdims]
      exact ⟨hframe, haction⟩
  · refine ⟨t, o, hexec, hout, fun fr hfr => ?_, fun v hc hv hl => absurd ⟨hc, hv, hl⟩ (hnone v)⟩
    cases hframe.symm.trans hfr

/-- Settles O43: the first two outcomes at the boundary are those of a completed access unit, and only
the first of them has a frame. -/
theorem accessUnitsCompleteInThreeCasesOnly : Obligations.AccessUnitsCompleteInThreeCasesOnly := by
  intro i s
  obtain ⟨t, hexec, heffect⟩ := exec_effect s i
  obtain ⟨o, hout, ⟨v, ⟨hc, hv, hl⟩, -, hframe, haction⟩ | ⟨v, ⟨hc, hv, hl⟩, -, hframe, haction⟩ |
    ⟨hnone, hframe, hemitted, hdropped⟩⟩ := effect_frameBoundary heffect
  · refine ⟨t, o, hexec, hout, iff_of_true (.inl haction) ⟨hc, v, hv, hl⟩, ?_⟩
    exact iff_of_true (by rw [hframe, Option.isSome_some]) haction
  · refine ⟨t, o, hexec, hout, iff_of_true (.inr haction) ⟨hc, v, hv, hl⟩, ?_⟩
    exact iff_of_false (by simp [hframe]) (by simp [haction])
  · refine ⟨t, o, hexec, hout, iff_of_false (not_or.2 ⟨hemitted, hdropped⟩) ?_, ?_⟩
    · rintro ⟨hc, v, hv, hl⟩
      exact hnone v ⟨hc, hv, hl⟩
    · exact iff_of_false (by simp [hframe]) hemitted

end Sys2Proof.Machine

/-! Exceptional conditions (60_exceptions.md R116): every instruction, and every datagram the interface
admits, completes with a record and leaves the block fit for the next datagram. -/

namespace Sys2Proof.Machine

/-- Every instruction ends by publishing a record, and writes the block's own elements and the ports
only. -/
theorem exec_completes (i : Instr) (s : State) :
    ∃ t o, exec i s = .next t ∧ t.out = some o ∧ SameSurround s t := by
  obtain ⟨t, o, hexec, hout, -⟩ := exec_hdrStatus i s
  exact ⟨t, o, hexec, hout, effect_sameSurround (effect_of_exec s hexec)⟩

/-- The step of an admitted datagram is the run of its instruction with the datagram consumed, so reset
stays done and exactly the later inputs remain. -/
theorem step_completes {s : State} {d : Bytes} {rest : List Input}
    (hin : s.input = .datagram d :: rest) (hr : s.resetDone = true)
    (hl : d.length ≤ s.params.dgramMaxBytes) :
    ∃ t o, step s = .next t ∧ t.out = some o ∧ t.resetDone = true ∧ t.params = s.params ∧
      t.input = rest := by
  obtain ⟨t, o, hexec, hout, hparams, hinput, hreset⟩ :=
    exec_completes (decode d) { s with input := rest }
  exact ⟨t, o, (step_eq_exec_decode hin hr hl).trans hexec, hout, hreset.trans hr, hparams, hinput⟩

/-- Settles O9: `Fault` has no constructor, so the first part holds by its type; what R116 asks of the
block is in the other two, that every instruction and every admitted datagram completes. -/
theorem everyStepCompletesWithARecord : Obligations.EveryStepCompletesWithARecord := by
  refine ⟨fun _ r => ?_, exec_completes, fun _ _ _ => step_completes⟩
  cases r

end Sys2Proof.Machine

/-! Reset (70_reset_and_hazards.md R131): the state after reset is the one the reset step leaves as it
is, so it holds what the reset step writes to each element. -/

namespace Sys2Proof.Machine

@[simp] theorem applyReset_reset : applyReset State.reset = State.reset := rfl

/-- Settles O2: the state after reset is `applyReset` of itself, so each element is read off by that
update's own lemma. -/
theorem stateAfterResetHoldsTheResetValues : Obligations.StateAfterResetHoldsTheResetValues := by
  unfold Obligations.StateAfterResetHoldsTheResetValues
  rw [← applyReset_reset]
  exact ⟨applyReset_seqLast _, applyReset_reState _, applyReset_auBuf _, applyReset_spsBuf _,
    applyReset_ppsBuf _, applyReset_width _, applyReset_height _, applyReset_anomalyCount _,
    applyReset_out _, applyReset_frameOut _⟩

end Sys2Proof.Machine

/-! The decoder and the encoder (30_encoding.md): the opcode table selects the row of the prose, and
`decode` and `encode` are inverse to each other on the well-formed instructions. -/

namespace Sys2Proof.Machine

/-! ## The table is total and agrees with the prose (30_encoding.md R46 to R48) -/

/-- The first row takes the datagrams shorter than the header, the last row all others. -/
theorem exists_rowMatches (d : Bytes) : ∃ r ∈ opcodeTable, rowMatches d r = true := by
  rcases Nat.lt_or_ge d.length 12 with hshort | hlong
  · exact ⟨⟨.rejShort, 0, 0, 0, some 11⟩, by decide, by simp [rowMatches]; omega⟩
  · exact ⟨⟨.rejVersion, 0, 0, 12, none⟩, by decide, by simp [rowMatches, hlong]⟩

theorem rowOf_of_find? {d : Bytes} {r : OpRow} (h : opcodeTable.find? (rowMatches d) = some r) :
    rowOf d = r.op := by
  simp [rowOf, h]

/-- Settles O13: some row matches, and `decode` branches on the first that does. -/
theorem decoderFollowsTheFirstMatchingRow : Obligations.DecoderFollowsTheFirstMatchingRow := by
  intro d
  obtain ⟨r, hfind⟩ := Option.isSome_iff_exists.1 (List.find?_isSome.2 (exists_rowMatches d))
  exact ⟨r, hfind, (op_decode d).trans (rowOf_of_find? hfind)⟩

/-- Of an accepted datagram's rows, the two of a continuation are told apart by the marker. -/
theorem rowOf_continuation_iff {d : Bytes} (h : headerStatus d = .accepted) :
    (rowOf d = .fuaMid → markerOf d = 0) ∧ (rowOf d = .fuaEnd → markerOf d ≠ 0) := by
  obtain ⟨hl, hv, hpt⟩ := headerStatus_eq_accepted_iff.1 h
  rw [rowOf_of_accepted hv hpt hl]
  split_ifs <;> simp_all

/-- The row of an accepted payload of a kind, by the prose: the marker selects a continuation's
(40_rtp_header.md R56). A rejected datagram's kind has no row of its own here. -/
def opOfKind (m : BitVec 1) : Kind → Op
  | .sps => .nalSps
  | .pps => .nalPps
  | .idr => .nalIdr
  | .nonidr => .nalNonidr
  | .fuaStart => .fuaStart
  | .fuaCont => if m = 0 then .fuaMid else .fuaEnd
  | .unknown | .none => .nalUnknown

theorem proseOp_of_accepted {d : Bytes} (h : headerStatus d = .accepted) :
    proseOp d = opOfKind (markerOf d) (classify (payloadOf d)) := by
  rw [proseOp, h]
  rfl

theorem hdrStatus_eq_rejVersion_iff (o : Op) : o.hdrStatus = .rejVersion ↔ o = .rejVersion := by
  cases o <;> decide

theorem hdrStatus_eq_rejPt_iff (o : Op) : o.hdrStatus = .rejPt ↔ o = .rejPt := by
  cases o <;> decide

theorem rowOf_eq_proseOp (d : Bytes) : rowOf d = proseOp d := by
  cases h : headerStatus d with
  | accepted =>
    have hst : (rowOf d).hdrStatus = .accepted := (hdrStatus_rowOf d).trans h
    obtain ⟨hmid, hend⟩ := rowOf_continuation_iff h
    rw [proseOp_of_accepted h, ← kind_rowOf h]
    cases hrow : rowOf d with
    | rejShort | rejPt | rejVersion => rw [hrow] at hst; cases hst
    | nalNonidr | nalIdr | nalSps | nalPps | fuaStart | nalUnknown => rfl
    | fuaMid => exact (if_pos (hmid hrow)).symm
    | fuaEnd => exact (if_neg (hend hrow)).symm
  | rejShort =>
    rw [proseOp, h]
    exact (hdrStatus_eq_rejShort_iff _).1 ((hdrStatus_rowOf d).trans h)
  | rejVersion =>
    rw [proseOp, h]
    exact (hdrStatus_eq_rejVersion_iff _).1 ((hdrStatus_rowOf d).trans h)
  | rejPt =>
    rw [proseOp, h]
    exact (hdrStatus_eq_rejPt_iff _).1 ((hdrStatus_rowOf d).trans h)

/-- Settles O14: the row is determined by its header status, its kind and, for a continuation, the
marker, and in each of them the table agrees with the prose. -/
theorem tableAgreesWithTheProse : Obligations.TableAgreesWithTheProse :=
  fun d => (op_decode d).trans (rowOf_eq_proseOp d)

/-! ## A datagram is its header fields and its payload (30_encoding.md R40, R41) -/

/-- The fields cut from byte 0, put together again, are the byte (30_encoding.md R41). -/
theorem firstByte_fields (b : Byte) :
    b.extractLsb' 6 2 ++ bitOf b 5 ++ bitOf b 4 ++ b.extractLsb' 0 4 = b := by
  revert b
  decide +kernel

theorem secondByte_fields (b : Byte) : bitOf b 7 ++ b.extractLsb' 0 7 = b :=
  extractLsb'_append_low (n := 1) (k := 7) b

theorem be16_bytes (w : U16) : be16 (w.extractLsb' 8 8) (w.extractLsb' 0 8) = w :=
  extractLsb'_append_low (n := 8) (k := 8) w

theorem be32_bytes (w : U32) :
    be32 (w.extractLsb' 24 8) (w.extractLsb' 16 8) (w.extractLsb' 8 8) (w.extractLsb' 0 8) = w := by
  have h : w.extractLsb' 24 8 ++ w.extractLsb' 16 8 ++ w.extractLsb' 8 8 ++ w.extractLsb' 0 8 =
      w.extractLsb' 0 32 := by
    rw [BitVec.extractLsb'_append_extractLsb'_eq_extractLsb' (by rfl),
      BitVec.extractLsb'_append_extractLsb'_eq_extractLsb' (by rfl),
      BitVec.extractLsb'_append_extractLsb'_eq_extractLsb' (by rfl)]
  exact h.trans BitVec.extractLsb'_eq_self

theorem firstByte_inj {v v' : BitVec 2} {p p' x x' : BitVec 1} {cc cc' : BitVec 4} :
    (v ++ p ++ x ++ cc : Byte) = v' ++ p' ++ x' ++ cc' ↔ v = v' ∧ p = p' ∧ x = x' ∧ cc = cc' := by
  have h : v ++ p ++ x ++ cc = v' ++ p' ++ x' ++ cc' ↔ v = v' ∧ p = p' ∧ x = x' ∧ cc = cc' := by
    simp only [bitVec_append_inj, and_assoc]
  exact h

theorem be16_inj {a b a' b' : Byte} : be16 a b = be16 a' b' ↔ a = a' ∧ b = b' :=
  bitVec_append_inj

theorem be32_inj {a b c e a' b' c' e' : Byte} :
    be32 a b c e = be32 a' b' c' e' ↔ a = a' ∧ b = b' ∧ c = c' ∧ e = e' := by
  have h : a ++ b ++ c ++ e = a' ++ b' ++ c' ++ e' ↔ a = a' ∧ b = b' ∧ c = c' ∧ e = e' := by
    simp only [bitVec_append_inj, and_assoc]
  exact h

theorem bytesOf16_be16 (a b : Byte) : bytesOf16 (be16 a b) = [a, b] := by
  obtain ⟨ha, hb⟩ := be16_inj.1 (be16_bytes (be16 a b))
  rw [bytesOf16, ha, hb]

theorem bytesOf32_be32 (a b c e : Byte) : bytesOf32 (be32 a b c e) = [a, b, c, e] := by
  obtain ⟨ha, hb, hc, he⟩ := be32_inj.1 (be32_bytes (be32 a b c e))
  rw [bytesOf32, ha, hb, hc, he]

theorem take_eq_map_byteAt {d : Bytes} {n : Nat} (h : n ≤ d.length) :
    d.take n = (List.range n).map (byteAt d) := by
  refine List.ext_getElem (by simp [h]) fun i hi _ => ?_
  have hid : i < d.length := by simp at hi; omega
  simp [byteAt, hid]

theorem headerBytes_fields {d : Bytes} (h : 12 ≤ d.length) :
    headerBytes (versionOf d) (markerOf d) (payloadTypeOf d) (fieldsOf d) = d.take 12 := by
  rw [take_eq_map_byteAt h, headerBytes, fieldsOf, bytesOf16_be16, bytesOf32_be32, bytesOf32_be32]
  simp only [versionOf, markerOf, payloadTypeOf, firstByte_fields, secondByte_fields]
  rfl

/-- No bit of a datagram that has a whole header is outside its header fields and its payload. -/
theorem headerBytes_append_payloadOf {d : Bytes} (h : 12 ≤ d.length) :
    headerBytes (versionOf d) (markerOf d) (payloadTypeOf d) (fieldsOf d) ++ payloadOf d = d := by
  rw [headerBytes_fields h, payloadOf, Config.hdrLen, List.take_append_drop]

theorem headerBytes_inj {v v' : BitVec 2} {m m' : BitVec 1} {pt pt' : BitVec 7} {f f' : RtpFields}
    (h : headerBytes v m pt f = headerBytes v' m' pt' f') :
    v = v' ∧ m = m' ∧ pt = pt' ∧ f = f' := by
  cases f
  cases f'
  simp only [headerBytes, bytesOf16, bytesOf32, List.cons_append, List.nil_append,
    List.cons.injEq, and_true] at h
  obtain ⟨h0, h1, h2, h3, h4, h5, h6, h7, h8, h9, h10, h11⟩ := h
  obtain ⟨rfl, rfl, rfl, rfl⟩ := firstByte_inj.1 h0
  obtain ⟨rfl, rfl⟩ := bitVec_append_inj.1 h1
  have hseq := be16_inj.2 ⟨h2, h3⟩
  have hts := be32_inj.2 ⟨h4, h5, h6, h7⟩
  have hssrc := be32_inj.2 ⟨h8, h9, h10, h11⟩
  rw [be16_bytes, be16_bytes] at hseq
  rw [be32_bytes, be32_bytes] at hts hssrc
  simp [hseq, hts, hssrc]

/-! ## The fields of an encoding -/

section HeaderBytes

variable (v : BitVec 2) (m : BitVec 1) (pt : BitVec 7) (f : RtpFields) (p : Bytes)

theorem fields_headerBytes_append :
    versionOf (headerBytes v m pt f ++ p) = v ∧ markerOf (headerBytes v m pt f ++ p) = m ∧
      payloadTypeOf (headerBytes v m pt f ++ p) = pt ∧ fieldsOf (headerBytes v m pt f ++ p) = f :=
  headerBytes_inj (headerBytes_fields (Nat.le_add_left 12 p.length))

@[simp] theorem versionOf_headerBytes_append : versionOf (headerBytes v m pt f ++ p) = v := by
  obtain ⟨h, -⟩ := fields_headerBytes_append v m pt f p
  exact h

@[simp] theorem markerOf_headerBytes_append : markerOf (headerBytes v m pt f ++ p) = m := by
  obtain ⟨-, h, -⟩ := fields_headerBytes_append v m pt f p
  exact h

@[simp] theorem payloadTypeOf_headerBytes_append : payloadTypeOf (headerBytes v m pt f ++ p) = pt := by
  obtain ⟨-, -, h, -⟩ := fields_headerBytes_append v m pt f p
  exact h

@[simp] theorem fieldsOf_headerBytes_append : fieldsOf (headerBytes v m pt f ++ p) = f := by
  obtain ⟨-, -, -, h⟩ := fields_headerBytes_append v m pt f p
  exact h

@[simp] theorem payloadOf_headerBytes_append : payloadOf (headerBytes v m pt f ++ p) = p := rfl

end HeaderBytes

/-! ## The row of an encoding -/

theorem headerStatus_acceptedBytes (m : BitVec 1) (f : RtpFields) (p : Bytes) :
    headerStatus (acceptedBytes m f p) = .accepted :=
  headerStatus_eq_accepted_iff.2 ⟨Nat.le_add_left 12 p.length,
    versionOf_headerBytes_append _ m _ f p, payloadTypeOf_headerBytes_append _ m _ f p⟩

theorem rowOf_acceptedBytes (m : BitVec 1) (f : RtpFields) (p : Bytes) :
    rowOf (acceptedBytes m f p) = opOfKind m (classify p) := by
  have hm : markerOf (acceptedBytes m f p) = m := markerOf_headerBytes_append _ m _ f p
  rw [rowOf_eq_proseOp, proseOp_of_accepted (headerStatus_acceptedBytes m f p), hm]
  rfl

theorem keepBits_nalHeader (nri : BitVec 3) (t : BitVec 5) : keepBits (nalHeader nri t) = nri :=
  BitVec.extractLsb'_append_eq_left

theorem typeBits_nalHeader (nri : BitVec 3) (t : BitVec 5) : typeBits (nalHeader nri t) = t :=
  typeBits_append nri t

/-- The fields of an FU header are the operands it is put together from (30_encoding.md R44). -/
theorem fields_fuHeader (a e r : BitVec 1) (typ : BitVec 5) :
    bitOf (fuHeader a e r typ) 7 = a ∧ bitOf (fuHeader a e r typ) 6 = e ∧
      bitOf (fuHeader a e r typ) 5 = r ∧ typeBits (fuHeader a e r typ) = typ := by
  revert a e r typ
  decide +kernel

theorem classify_nalPayload (nri : BitVec 3) (t : BitVec 5) (body : Bytes)
    (ht : t ≠ Config.nalFua) :
    classify (nalPayload nri t body) =
      if t = Config.nalSps then .sps
      else if t = Config.nalPps then .pps
      else if t = Config.nalIdr then .idr
      else if t = Config.nalNonidr then .nonidr
      else .unknown := by
  simp [classify, nalPayload, typeBits_nalHeader, ht]

theorem classify_fuaPayload (ind : BitVec 3) (a e r : BitVec 1) (typ : BitVec 5) (frag : Bytes) :
    classify (fuaPayload ind a e r typ frag) = if a = 1 then .fuaStart else .fuaCont := by
  have htyp : typeBits (fuIndicator ind) = Config.nalFua := typeBits_nalHeader ind _
  obtain ⟨hstart, -⟩ := fields_fuHeader a e r typ
  simp [classify, fuaPayload, htyp, hstart, Config.nalFua, Config.nalSps, Config.nalPps,
    Config.nalIdr, Config.nalNonidr]

theorem unknownPayload_iff (p : Bytes) : unknownPayload p = true ↔ classify p = .unknown := by
  cases p with
  | nil => exact iff_of_true rfl rfl
  | cons b rest =>
    cases rest with
    | nil => simp [unknownPayload, classify, ite_eq_iff, and_assoc]
    | cons c frag => simp [unknownPayload, classify, ite_eq_iff, and_assoc]

/-! ## Decoding an encoding -/

section AcceptedBytes

variable (m : BitVec 1) (f : RtpFields) (p : Bytes)

@[simp] theorem markerOf_acceptedBytes : markerOf (acceptedBytes m f p) = m :=
  markerOf_headerBytes_append _ m _ f p

@[simp] theorem fieldsOf_acceptedBytes : fieldsOf (acceptedBytes m f p) = f :=
  fieldsOf_headerBytes_append _ m _ f p

@[simp] theorem payloadOf_acceptedBytes : payloadOf (acceptedBytes m f p) = p := rfl

@[simp] theorem byteAt_acceptedBytes_twelve : byteAt (acceptedBytes m f p) 12 = byteAt p 0 := rfl

@[simp] theorem byteAt_acceptedBytes_thirteen : byteAt (acceptedBytes m f p) 13 = byteAt p 1 := rfl

@[simp] theorem drop_acceptedBytes_thirteen : (acceptedBytes m f p).drop 13 = p.drop 1 := rfl

@[simp] theorem drop_acceptedBytes_fourteen : (acceptedBytes m f p).drop 14 = fragment p := rfl

@[simp] theorem keepBits_byteAt_nalPayload (nri : BitVec 3) (t : BitVec 5) (body : Bytes) :
    keepBits (byteAt (nalPayload nri t body) 0) = nri := keepBits_nalHeader nri t

@[simp] theorem tail_nalPayload (nri : BitVec 3) (t : BitVec 5) (body : Bytes) :
    (nalPayload nri t body).tail = body := rfl

@[simp] theorem keepBits_byteAt_fuaPayload (ind : BitVec 3) (a e r : BitVec 1) (typ : BitVec 5)
    (frag : Bytes) : keepBits (byteAt (fuaPayload ind a e r typ frag) 0) = ind :=
  keepBits_nalHeader ind _

end AcceptedBytes

theorem rowOf_nalPayload (m : BitVec 1) (f : RtpFields) (nri : BitVec 3) (body : Bytes) :
    rowOf (acceptedBytes m f (nalPayload nri Config.nalNonidr body)) = .nalNonidr ∧
    rowOf (acceptedBytes m f (nalPayload nri Config.nalIdr body)) = .nalIdr ∧
    rowOf (acceptedBytes m f (nalPayload nri Config.nalSps body)) = .nalSps ∧
    rowOf (acceptedBytes m f (nalPayload nri Config.nalPps body)) = .nalPps := by
  simp only [rowOf_acceptedBytes]
  refine ⟨?_, ?_, ?_, ?_⟩ <;> rw [classify_nalPayload _ _ _ (by decide)] <;> rfl

theorem rowOf_fuaPayload (m : BitVec 1) (f : RtpFields) (ind : BitVec 3) (a e r : BitVec 1)
    (typ : BitVec 5) (frag : Bytes) :
    rowOf (acceptedBytes m f (fuaPayload ind a e r typ frag)) =
      if a = 1 then .fuaStart else if m = 0 then .fuaMid else .fuaEnd := by
  rw [rowOf_acceptedBytes, classify_fuaPayload]
  by_cases ha : a = 1
  · rw [if_pos ha, if_pos ha]
    rfl
  · rw [if_neg ha, if_neg ha]
    rfl

theorem decode_encode (i : Instr) (h : i.wellFormed = true) : decode (encode i) = i := by
  cases i with
  | rejShort d =>
    have hrow : rowOf d = .rejShort := rowOf_eq_rejShort (by simpa [Instr.wellFormed] using h)
    simp [encode, decode, hrow]
  | nalNonidr m f nri body =>
    obtain ⟨hrow, -, -, -⟩ := rowOf_nalPayload m f nri body
    simp [encode, decode, hrow]
  | nalIdr m f nri body =>
    obtain ⟨-, hrow, -, -⟩ := rowOf_nalPayload m f nri body
    simp [encode, decode, hrow]
  | nalSps m f nri body =>
    obtain ⟨-, -, hrow, -⟩ := rowOf_nalPayload m f nri body
    simp [encode, decode, hrow]
  | nalPps m f nri body =>
    obtain ⟨-, -, -, hrow⟩ := rowOf_nalPayload m f nri body
    simp [encode, decode, hrow]
  | fuaStart m f ind e r typ frag =>
    simp [encode, decode, rowOf_fuaPayload, byteAt_fuaPayload_one, fields_fuHeader]
  | fuaMid f ind e r typ frag =>
    simp [encode, decode, rowOf_fuaPayload, byteAt_fuaPayload_one, fields_fuHeader]
  | fuaEnd f ind e r typ frag =>
    simp [encode, decode, rowOf_fuaPayload, byteAt_fuaPayload_one, fields_fuHeader]
  | nalUnknown m f p =>
    have hrow : rowOf (acceptedBytes m f p) = .nalUnknown := by
      rw [rowOf_acceptedBytes, (unknownPayload_iff p).1 h]
      rfl
    simp [encode, decode, hrow]
  | rejPt m pt f p =>
    have hpt : pt ≠ Config.ptH264 := by simpa [Instr.wellFormed] using h
    have hrow : rowOf (headerBytes Config.rtpVersion m pt f ++ p) = .rejPt :=
      rowOf_of_payloadType_ne (Nat.le_add_left 12 p.length)
        (versionOf_headerBytes_append _ m pt f p) (by rwa [payloadTypeOf_headerBytes_append])
    simp [encode, decode, hrow]
  | rejVersion v m pt f p =>
    have hv : v ≠ Config.rtpVersion := by simpa [Instr.wellFormed] using h
    have hrow : rowOf (headerBytes v m pt f ++ p) = .rejVersion :=
      rowOf_of_version_ne (Nat.le_add_left 12 p.length) (by rwa [versionOf_headerBytes_append])
    simp [encode, decode, hrow]

/-- Settles O11: the row of an encoding is its instruction's, and each operand is cut from where the
encoder put it. -/
theorem decodingAnEncodingGivesTheInstruction :
    Obligations.DecodingAnEncodingGivesTheInstruction := decode_encode

/-! ## Encoding a decoded datagram -/

theorem acceptedBytes_of_accepted {d : Bytes} (h : headerStatus d = .accepted) :
    acceptedBytes (markerOf d) (fieldsOf d) (payloadOf d) = d := by
  obtain ⟨hl, hv, hpt⟩ := headerStatus_eq_accepted_iff.1 h
  rw [acceptedBytes, ← hv, ← hpt, headerBytes_append_payloadOf hl]

theorem encode_decode_of_accepted {d : Bytes} (h : headerStatus d = .accepted) :
    (decode d).wellFormed = true ∧ encode (decode d) = d := by
  obtain ⟨hl, hv, hpt⟩ := headerStatus_eq_accepted_iff.1 h
  have hencode {p : Bytes} (hp : p = payloadOf d) :
      acceptedBytes (markerOf d) (fieldsOf d) p = d := hp ▸ acceptedBytes_of_accepted h
  have hcont (hstart : ¬ bitOf (byteAt d 13) 7 = 1) : bitOf (byteAt d 13) 7 = 0 :=
    (BitVec.eq_zero_or_eq_one _).resolve_right hstart
  have hkind := kind_rowOf h
  rw [rowOf_of_accepted hv hpt hl] at hkind
  unfold decode
  rw [rowOf_of_accepted hv hpt hl]
  split_ifs at hkind ⊢ with hnonidr hidr hsps hpps hfua hstart hm
  · exact ⟨rfl, hencode (nalPayload_eq_payloadOf hnonidr.1 hnonidr.2)⟩
  · exact ⟨rfl, hencode (nalPayload_eq_payloadOf hidr.1 hidr.2)⟩
  · exact ⟨rfl, hencode (nalPayload_eq_payloadOf hsps.1 hsps.2)⟩
  · exact ⟨rfl, hencode (nalPayload_eq_payloadOf hpps.1 hpps.2)⟩
  · exact ⟨rfl, hencode (fuaPayload_eq_payloadOf hfua.1 hfua.2 hstart)⟩
  · rw [hm] at hencode
    exact ⟨rfl, hencode (fuaPayload_eq_payloadOf hfua.1 hfua.2 (hcont hstart))⟩
  · rw [(BitVec.eq_zero_or_eq_one (markerOf d)).resolve_left hm] at hencode
    exact ⟨rfl, hencode (fuaPayload_eq_payloadOf hfua.1 hfua.2 (hcont hstart))⟩
  · exact ⟨(unknownPayload_iff _).2 hkind.symm, hencode rfl⟩

theorem encode_decode_of_version_ne {d : Bytes} (hl : 12 ≤ d.length)
    (hv : versionOf d ≠ Config.rtpVersion) :
    (decode d).wellFormed = true ∧ encode (decode d) = d := by
  unfold decode
  rw [rowOf_of_version_ne hl hv]
  exact ⟨bne_iff_ne.2 hv, headerBytes_append_payloadOf hl⟩

theorem encode_decode_of_payloadType_ne {d : Bytes} (hl : 12 ≤ d.length)
    (hv : versionOf d = Config.rtpVersion) (hpt : payloadTypeOf d ≠ Config.ptH264) :
    (decode d).wellFormed = true ∧ encode (decode d) = d := by
  have hencode := headerBytes_append_payloadOf hl
  rw [hv] at hencode
  unfold decode
  rw [rowOf_of_payloadType_ne hl hv hpt]
  exact ⟨bne_iff_ne.2 hpt, hencode⟩

/-- Settles O12: a short datagram is its own operand, and of every other one the header fields and
the payload are the whole datagram. -/
theorem encodingADecodedDatagramGivesTheDatagram :
    Obligations.EncodingADecodedDatagramGivesTheDatagram := by
  intro d
  rcases Nat.lt_or_ge d.length 12 with hshort | hl
  · have hshort' : d.length ≤ 11 := Nat.le_of_lt_succ hshort
    unfold decode
    rw [rowOf_eq_rejShort hshort']
    exact ⟨decide_eq_true hshort', rfl⟩
  by_cases hv : versionOf d = Config.rtpVersion
  · by_cases hpt : payloadTypeOf d = Config.ptH264
    · exact encode_decode_of_accepted (headerStatus_eq_accepted_iff.2 ⟨hl, hv, hpt⟩)
    · exact encode_decode_of_payloadType_ne hl hv hpt
  · exact encode_decode_of_version_ne hl hv

/-- Settles O17: each datagram is the encoding of its instruction, byte by byte. -/
theorem writtenOutDatagramsDecode : Obligations.WrittenOutDatagramsDecode :=
  ⟨decode_encode (.nalNonidr 0 ⟨0, 0, 0, 1, 0, 0⟩ 2 []) rfl,
    decode_encode (.nalIdr 0 ⟨0, 0, 0, 1, 0, 0⟩ 3 []) rfl,
    decode_encode (.fuaStart 1 ⟨0, 0, 0, 1, 0, 0⟩ 3 0 0 5 [0xAA]) rfl,
    decode_encode (.fuaEnd ⟨0, 0, 0, 1, 0, 0⟩ 3 0 0 5 []) rfl,
    decode_encode (.rejPt 0 97 ⟨0, 0, 0, 1, 0, 0⟩ [0x65]) rfl,
    decode_encode (.rejVersion 3 0 0 ⟨0, 0, 0, 1, 0, 0⟩ [0x65]) rfl⟩

/-! ## Presenting an encoding (40_rtp_header.md R56) -/

/-- Settles O5: a step with an admitted datagram is the run of its decoding. -/
theorem stepRunsTheDecodedInstruction : Obligations.StepRunsTheDecodedInstruction := by
  intro s d rest i hin hr hl hdecode _
  rw [step_eq_exec_decode hin hr hl, hdecode]

/-- Settles O6: an encoding decodes to its instruction, which is the one the step runs. -/
theorem presentingAnEncodingRunsItsInstruction :
    Obligations.PresentingAnEncodingRunsItsInstruction := by
  intro s i rest hwf hin hr hl
  rw [step_eq_exec_decode hin hr hl, decode_encode i hwf]

/-! ## The fragments a sender builds (30_encoding.md R54, R55) -/

theorem indicator_of_nalHeader (h : Byte) : (h &&& 0xE0) ||| 28 = fuIndicator (keepBits h) := by
  revert h
  decide +kernel

theorem fuHeader_of_nalHeader (h : Byte) :
    0x80 ||| (h &&& 0x1F) = fuHeader 1 0 0 (typeBits h) ∧
      0x40 ||| (h &&& 0x1F) = fuHeader 0 1 0 (typeBits h) := by
  revert h
  decide +kernel

/-- A line without header fields is an accepted datagram whose other fields are 0. -/
theorem rtpDefault_eq_acceptedBytes (m : BitVec 1) (seq : U16) (p : Bytes) :
    rtpDefault m seq p = acceptedBytes m ⟨0, 0, 0, seq, 0, 0⟩ p := by
  have hfirst : (Config.rtpVersion ++ 0#6 : Byte) = Config.rtpVersion ++ 0#1 ++ 0#1 ++ 0#4 := by
    decide
  exact congrArg (· :: _) hfirst

/-- A sender's start fragment is the encoding of one with the NAL header's bits. -/
theorem fus_eq_encode (seq : U16) (m : BitVec 1) (h : Byte) (body : Bytes) :
    fus seq m h body =
      encode (.fuaStart m ⟨0, 0, 0, seq, 0, 0⟩ (keepBits h) 0 0 (typeBits h) body) := by
  obtain ⟨hheader, -⟩ := fuHeader_of_nalHeader h
  rw [fus, indicator_of_nalHeader, hheader, rtpDefault_eq_acceptedBytes]
  rfl

/-- A sender's end fragment is the encoding of one with the NAL header's bits, its end bit set. -/
theorem fue_eq_encode (seq : U16) (h : Byte) (body : Bytes) :
    fue seq h body = encode (.fuaEnd ⟨0, 0, 0, seq, 0, 0⟩ (keepBits h) 1 0 (typeBits h) body) := by
  obtain ⟨-, hheader⟩ := fuHeader_of_nalHeader h
  rw [fue, indicator_of_nalHeader, hheader, rtpDefault_eq_acceptedBytes]
  rfl

/-- Settles O18: the sender puts the header's upper bits into the indicator and its type into the FU
header, and the reconstruction takes them from there. -/
theorem startFragmentRebuildsTheSendersHeader :
    Obligations.StartFragmentRebuildsTheSendersHeader := by
  intro seq m h body
  rw [fus_eq_encode]
  refine ⟨decode_encode _ rfl, ?_⟩
  calc recon (fuIndicator (keepBits h)) (fuHeader 1 0 0 (typeBits h))
      = nalHeader (keepBits h) (typeBits h) := recon_fuaPayload _ _ _ _ _
    _ = h := nalHeader_keepBits_typeBits h

/-! ## Continuations (44_frame_boundary.md R112, 43_reassembler.md R100) -/

theorem rowOf_of_continuation {d : Bytes} (hv : versionOf d = Config.rtpVersion)
    (hpt : payloadTypeOf d = Config.ptH264) (hl : 14 ≤ d.length)
    (htyp : typeBits (byteAt d 12) = Config.nalFua) (hstart : bitOf (byteAt d 13) 7 = 0) :
    rowOf d = if markerOf d = 1 then .fuaEnd else .fuaMid := by
  rw [rowOf_of_accepted hv hpt (Nat.le_of_add_left_le hl)]
  rcases BitVec.eq_zero_or_eq_one (markerOf d) with hm | hm <;>
    simp [htyp, hl, hstart, hm, Config.nalFua, Config.nalNonidr, Config.nalIdr, Config.nalSps,
      Config.nalPps]

/-- The step of an accepted datagram reads a payload through the operation and its length. -/
theorem accept_payload_congr {op : State → Bytes → State × Report} {p p' : Bytes}
    (hop : ∀ s, op s p = op s p') (hlen : p.length = p'.length) (k : Kind) (m : BitVec 1)
    (f : RtpFields) (s : State) : accept k op m f p s = accept k op m f p' s := by
  simp only [accept, hop, acceptedOut, hlen]

/-- Settles O21: the marker alone tells the two rows of a continuation apart, and their operations
read the bytes behind the FU header only. -/
theorem markerAloneEndsARunOfFragments : Obligations.MarkerAloneEndsARunOfFragments := by
  refine ⟨fun d hl hv hpt htyp hstart => ?_, fun s f ind ind' e e' r r' typ typ' frag => ⟨?_, ?_⟩⟩
  · exact (op_decode d).trans (rowOf_of_continuation hv hpt hl htyp hstart)
  · exact congrArg Host.Outcome.next (accept_payload_congr (fun _ => rfl) rfl _ _ _ s)
  · exact congrArg Host.Outcome.next (accept_payload_congr (fun _ => rfl) rfl _ _ _ s)

end Sys2Proof.Machine

/-! The step on each input (70_reset_and_hazards.md, 60_exceptions.md R130), and the invariant that
every step keeps (10_state.md R24, R25). -/

namespace Sys2Proof.Machine

/-! ## The step on each input -/

section Inputs

variable {s : State} {rest : List Input}

theorem step_eq_quiet (hin : s.input = []) : step s = .next (quiet s) := by
  simp [step, present, hin]

theorem step_eq_applyReset (hin : s.input = .reset :: rest) :
    step s = .next (applyReset { s with input := rest }) := by
  simp [step, present, hin]

theorem step_eq_beforeReset {d : Bytes} (hin : s.input = .datagram d :: rest)
    (hr : s.resetDone = false) : step s = .refused .beforeReset := by
  simp [step, present, receive, hin, hr]

end Inputs

/-- Settles O1: the reset step leaves the state after reset, with the parameters and the later
inputs of the state it found. -/
theorem resetStepWritesEveryResetValue : Obligations.ResetStepWritesEveryResetValue :=
  fun _ _ hin => step_eq_applyReset hin

/-- Settles O4: the idle step empties the ports and does nothing else. -/
theorem withNothingPresentedTheBlockHoldsItsState :
    Obligations.WithNothingPresentedTheBlockHoldsItsState :=
  fun _ hin => step_eq_quiet hin

/-- Settles O8: the reset flag is read before the datagram is. -/
theorem noDatagramStepBeforeTheFirstReset : Obligations.NoDatagramStepBeforeTheFirstReset :=
  fun _ _ _ hin hr => step_eq_beforeReset hin hr

/-- Settles O10: each kind of step takes the head of the inputs, and no instruction writes them or
the parameters. -/
theorem inputsAreConsumedInOrderAndParametersKept :
    Obligations.InputsAreConsumedInOrderAndParametersKept := by
  intro s t hstep
  rcases step_cases s hstep with ⟨hin, rfl⟩ | ⟨rest, hin, rfl⟩ | ⟨d, rest, hin, -, -, hexec⟩
  · exact ⟨by rw [hin]; exact hin, rfl⟩
  · exact ⟨by rw [hin]; rfl, rfl⟩
  · obtain ⟨hparams, hinput, -⟩ := effect_sameSurround (effect_of_exec _ hexec)
    exact ⟨by rw [hin]; exact hinput, hparams⟩

/-! ## The bytes of an access unit (10_state.md R25, 44_frame_boundary.md R110) -/

/-- A start code, and at least one byte behind it. -/
def BeginsAccessUnit (v : Bytes) : Prop := 4 ≤ v.length ∧ v.take 3 = [0, 0, 1]

theorem beginsAccessUnit_append {v : Bytes} (h : BeginsAccessUnit v) (w : Bytes) :
    BeginsAccessUnit (v ++ w) := by
  obtain ⟨hlen, hcode⟩ := h
  refine ⟨by simp; omega, ?_⟩
  rw [List.take_append_of_le_length (by omega), hcode]

theorem beginsAccessUnit_nal (b : Byte) (body : Bytes) :
    BeginsAccessUnit ([0, 0, 1] ++ b :: body) :=
  ⟨Nat.le_add_left 4 body.length, rfl⟩

theorem beginsAccessUnit_cachedPrefix (s : State) : BeginsAccessUnit (cachedPrefix s) :=
  ⟨by simp [cachedPrefix]; omega, rfl⟩

/-! ## The updates keep the invariant -/

section RunInv

variable {s : State}

theorem runInv_seqTrack (h : RunInv s) (q : U16) : RunInv (seqTrack s q) := h

theorem runInv_publish (h : RunInv s) (o : Out) (fr : Option Frame) : RunInv (publish s o fr) := h

theorem runInv_auClear (h : RunInv s) : RunInv (auClear s) := by
  obtain ⟨-, -, hmem, hrest⟩ := h
  exact ⟨fun _ => rfl, fun hre => ReState.noConfusion hre, auClear_memory_wf s hmem, hrest⟩

theorem runInv_auReplace (h : RunInv s) {v : Bytes} (hv : BeginsAccessUnit v)
    (hmax : v.length ≤ s.params.auMaxBytes) : RunInv (auReplace s v) := by
  obtain ⟨-, -, hmem, hrest⟩ := h
  exact ⟨fun hre => ReState.noConfusion hre, fun _ => hv, auReplace_memory_wf s v hmem hmax, hrest⟩

theorem runInv_spsReplace (h : RunInv s) {p : Bytes} (hne : p ≠ [])
    (hmax : p.length ≤ s.params.spsMaxBytes) : RunInv (spsReplace s p) := by
  obtain ⟨hidle, hacc, hmem, hw, hh, hdims, -, hparams⟩ := h
  exact ⟨hidle, hacc, spsReplace_memory_wf s p hmem hmax, hw, hh, hdims, fun he => absurd he hne,
    hparams⟩

theorem runInv_ppsReplace (h : RunInv s) {p : Bytes} (hmax : p.length ≤ s.params.ppsMaxBytes) :
    RunInv (ppsReplace s p) := by
  obtain ⟨hidle, hacc, hmem, hrest⟩ := h
  exact ⟨hidle, hacc, ppsReplace_memory_wf s p hmem hmax, hrest⟩

theorem runInv_dimsReplace (h : RunInv s) {w k : Nat} (hw : w < 2 ^ s.params.dimBits)
    (hk : k < 2 ^ s.params.dimBits) (hw0 : w ≠ 0) (hk0 : k ≠ 0) (hsps : s.spsBuf ≠ []) :
    RunInv (dimsReplace s w k) := by
  obtain ⟨hidle, hacc, hmem, -, -, -, -, hparams⟩ := h
  exact ⟨hidle, hacc, hmem, hw, hk, iff_of_false hw0 hk0, fun he => absurd he hsps, hparams⟩

theorem runInv_applyReset (h : s.params.Valid) : RunInv (applyReset s) :=
  ⟨fun _ => rfl, fun hre => ReState.noConfusion hre, applyReset_memory_wf s, Nat.two_pow_pos _,
    Nat.two_pow_pos _, Iff.rfl, fun _ => rfl, h⟩

/-! ## Every step keeps the invariant -/

/-- Every write of the buffer begins with a start code: the instruction's own, or that of the access
unit it appends to. -/
theorem beginsAccessUnit_of_auWrite (h : RunInv s) {i : Instr} {v : Bytes}
    (hv : auWrite i s = some v) : BeginsAccessUnit v := by
  obtain ⟨-, hacc, -⟩ := h
  cases i with
  | rejShort | nalSps | nalPps | nalUnknown | rejPt | rejVersion => cases hv
  | nalNonidr => cases hv; exact beginsAccessUnit_nal _ _
  | nalIdr =>
    cases hv
    exact beginsAccessUnit_append (beginsAccessUnit_append (beginsAccessUnit_cachedPrefix s) _) _
  | fuaStart =>
    cases hv
    split
    · exact beginsAccessUnit_append (beginsAccessUnit_append (beginsAccessUnit_cachedPrefix s) _) _
    · exact beginsAccessUnit_nal _ _
  | fuaMid | fuaEnd =>
    obtain ⟨hre, hv⟩ := Option.ite_none_right_eq_some.1 hv
    cases hv
    exact beginsAccessUnit_append (hacc hre) _

theorem nalPayload_ne_nil (nri : BitVec 3) (t : BitVec 5) (body : Bytes) :
    nalPayload nri t body ≠ [] := List.cons_ne_nil _ _

theorem effect_runInv {i : Instr} {t : State} (he : Effect s i t) (h : RunInv s) : RunInv t := by
  cases he with
  | rejShort | rejPt | rejVersion => exact runInv_publish h _ _
  | unknown | spsDropped | ppsDropped | orphan => exact runInv_publish (runInv_seqTrack h _) _ _
  | spsNewDims m f nri body w k hl hp hw hh hd =>
    have hparsed := And.intro (spsParse_fst_lt s (nalPayload nri Config.nalSps body))
      (spsParse_snd_lt s (nalPayload nri Config.nalSps body))
    rw [hp] at hparsed
    obtain ⟨hwlt, hklt⟩ := hparsed
    have hsps := runInv_spsReplace (runInv_seqTrack h f.seq)
      (nalPayload_ne_nil nri Config.nalSps body) hl
    exact runInv_publish
      (runInv_dimsReplace hsps hwlt hklt hw hh (nalPayload_ne_nil nri Config.nalSps body)) _ _
  | spsSameDims m f nri body w k hl =>
    exact runInv_publish
      (runInv_spsReplace (runInv_seqTrack h f.seq)
        (nalPayload_ne_nil nri Config.nalSps body) hl) _ _
  | ppsCached m f nri body hl =>
    exact runInv_publish (runInv_ppsReplace (p := nalPayload nri Config.nalPps body)
      (runInv_seqTrack h f.seq) hl) _ _
  | overflow | emitted | noRes => exact runInv_publish (runInv_auClear (runInv_seqTrack h _)) _ _
  | held _ m f p v hv _ _ hl =>
    have hbegins := beginsAccessUnit_of_auWrite h hv
    exact runInv_publish (runInv_auReplace (runInv_seqTrack h f.seq) hbegins hl) _ _

end RunInv

/-- Settles O50: an idle step keeps every element, a reset step writes the reset values, and each
way an instruction's step can go is made of updates that keep the invariant. -/
theorem everyStepKeepsTheInvariant : Obligations.EveryStepKeepsTheInvariant := by
  intro s t hinv hstep
  rcases step_cases s hstep with ⟨-, rfl⟩ | ⟨rest, -, rfl⟩ | ⟨d, rest, -, -, -, hexec⟩
  · exact hinv
  · obtain ⟨-, -, -, -, -, -, -, hparams⟩ := hinv
    exact runInv_applyReset hparams
  · exact effect_runInv (effect_of_exec _ hexec) hinv

/-- Each parameter that 00_scope.md R8 bounds is its least value and a slack. -/
theorem params_valid : Config.params.Valid :=
  ⟨Nat.le_add_left _ _, Nat.le_add_left _ _, Nat.le_add_left _ _, Nat.le_add_left _ _,
    Nat.le_add_left _ _⟩

/-- Settles O51: the state after reset is the one a reset step leaves as it is. -/
theorem invariantHoldsAfterReset : Obligations.InvariantHoldsAfterReset :=
  runInv_applyReset (s := State.reset) params_valid

/-! ## Emitted frames (44_frame_boundary.md R110, 43_reassembler.md R94) -/

/-- A frame leaves only for a completed access unit, of which it has every byte, with the dimensions
known. -/
theorem effect_frame {s t : State} {i : Instr} {fr : Frame} (h : Effect s i t)
    (hfr : t.frameOut = some fr) :
    ∃ v, CompletesAs s i v ∧ (0 < s.width ∧ 0 < s.height) ∧ fr = frameOf s v := by
  obtain ⟨o, -, ⟨v, hv, hdims, hframe, -⟩ | ⟨v, -, -, hframe, -⟩ | ⟨-, hframe, -⟩⟩ :=
    effect_frameBoundary h
  · exact ⟨v, hv, hdims, Option.some.inj (hfr.symm.trans hframe)⟩
  · cases hfr.symm.trans hframe
  · cases hfr.symm.trans hframe

/-- Settles O44: the frame's data are the instruction's write, which begins with a start code. -/
theorem emittedFramesAreWholeAccessUnits : Obligations.EmittedFramesAreWholeAccessUnits := by
  intro i s hinv
  obtain ⟨t, hexec, heffect⟩ := exec_effect s i
  refine ⟨t, hexec, fun fr hfr => ?_⟩
  obtain ⟨v, ⟨-, hv, hmax⟩, -, rfl⟩ := effect_frame heffect hfr
  obtain ⟨hmin, hcode⟩ := beginsAccessUnit_of_auWrite hinv hv
  exact ⟨rfl, rfl, rfl, hv, rfl, hcode, hmin, hmax⟩

/-- Settles O45: a frame needs the dimensions, which are unknown while no SPS is cached. -/
theorem framesAreEmittedOnlyWithACachedSps : Obligations.FramesAreEmittedOnlyWithACachedSps := by
  intro i s hinv
  obtain ⟨t, hexec, heffect⟩ := exec_effect s i
  obtain ⟨-, -, -, -, -, -, hunknown, -⟩ := hinv
  refine ⟨t, hexec, fun hframe hempty => ?_⟩
  obtain ⟨fr, hfr⟩ := Option.ne_none_iff_exists'.1 hframe
  obtain ⟨-, -, ⟨hwidth, -⟩, -⟩ := effect_frame heffect hfr
  exact hwidth.ne' (hunknown hempty)

end Sys2Proof.Machine

/-! What every instruction leaves of the state and shows in its record: nothing but a reset clears
(70_reset_and_hazards.md R132), the transitions of the reassembler (43_reassembler.md R87), and the
record (60_exceptions.md R117 to R122). -/

namespace Sys2Proof.Machine

section Effects

variable {s t : State} {i : Instr} {o : Out}

/-! ## The tracker and the caches are never cleared (41_sequence_tracker.md R72,
42_parameter_sets.md R86) -/

theorem sameTracker_or_tracked_of_exec (h : exec i s = .next t) :
    SameTracker s t ∨ ∃ q, Tracked s t q := by
  cases hq : seqOf i with
  | none =>
    cases h.symm.trans (exec_of_rejected (hdrStatus_ne_accepted_of_seqOf hq) s)
    exact .inl ⟨rfl, rfl⟩
  | some q => exact .inr ⟨q, tracked_of_exec hq h⟩

theorem tracker_kept_of_exec (h : exec i s = .next t) :
    (s.seqLast ≠ none → t.seqLast ≠ none) ∧
      (t.anomalyCount = s.anomalyCount ∨ t.anomalyCount = s.anomalyCount + 1) := by
  rcases sameTracker_or_tracked_of_exec h with ⟨hlast, hcount⟩ | ⟨q, hlast, hcount⟩
  · exact ⟨fun hs => by rwa [hlast], .inl hcount⟩
  · refine ⟨fun _ => by simp [hlast], ?_⟩
    rw [hcount]
    split
    · exact .inl rfl
    · split_ifs
      · exact .inl rfl
      · exact .inr rfl

/-- A new SPS or PPS has at least its NAL header, and new dimensions are not 0. -/
theorem effect_cache_kept (h : Effect s i t) :
    (s.spsBuf ≠ [] → t.spsBuf ≠ []) ∧ (s.ppsBuf ≠ [] → t.ppsBuf ≠ []) ∧
      (s.width ≠ 0 → t.width ≠ 0) ∧ (s.height ≠ 0 → t.height ≠ 0) := by
  cases h with
  | spsNewDims m f nri body w k _ _ hw hk =>
    exact ⟨fun _ => nalPayload_ne_nil nri _ body, id, fun _ => hw, fun _ => hk⟩
  | spsSameDims m f nri body => exact ⟨fun _ => nalPayload_ne_nil nri _ body, id, id, id⟩
  | ppsCached m f nri body => exact ⟨id, fun _ => nalPayload_ne_nil nri _ body, id, id⟩
  | rejShort | rejPt | rejVersion | unknown | spsDropped | ppsDropped | orphan | overflow | emitted
  | noRes | held => exact ⟨id, id, id, id⟩

/-! ## Transitions of the reassembler (43_reassembler.md R87) -/

theorem effect_reState_of_no_write (h : Effect s i t) (hw : auWrite i s = none) :
    t.reState = s.reState := by
  cases h with
  | rejShort | rejPt | rejVersion | unknown | spsDropped | spsNewDims | spsSameDims | ppsDropped
  | ppsCached | orphan => rfl
  | overflow _ _ _ _ _ hv | emitted _ _ _ _ _ hv | noRes _ _ _ _ _ hv | held _ _ _ _ _ hv =>
    cases hw.symm.trans hv

theorem effect_reState_of_write {v : Bytes} (h : Effect s i t) (hv : auWrite i s = some v) :
    t.reState =
      if s.params.auMaxBytes < v.length then .idle
      else if completes i.op then .idle else .accumulating := by
  obtain ⟨m, f, p, ⟨hl, rfl⟩ | ⟨hl, hc, -, rfl⟩ | ⟨hl, hc, -, rfl⟩ | ⟨hl, hc, rfl⟩⟩ :=
    effect_of_auWrite h hv
  · rw [if_pos hl]; rfl
  · rw [if_neg hl.not_gt, if_pos hc]; rfl
  · rw [if_neg hl.not_gt, if_pos hc]; rfl
  · rw [if_neg hl.not_gt, hc]; rfl

/-! ## Which events stand beside which action (60_exceptions.md R122) -/

theorem effect_action_of_seqAnomaly (h : Effect s i t) (hout : t.out = some o)
    (hanomaly : o.seqAnomaly = true) : o.action ≠ .none := by
  cases h with
  | rejShort | rejPt | rejVersion => cases hout; cases hanomaly
  | held =>
    cases hout
    have haction : ∀ b : Bool, (if b then Action.auStarted else .auAppended) ≠ .none := by decide
    exact haction _
  | unknown | spsDropped | spsNewDims | spsSameDims | ppsDropped | ppsCached | orphan | overflow
  | emitted | noRes => cases hout; exact Action.noConfusion

theorem effect_action_of_resChange (h : Effect s i t) (hout : t.out = some o)
    (hchange : o.resChange = true) : o.action = .cachedSps := by
  cases h with
  | spsNewDims => cases hout; rfl
  | rejShort | rejPt | rejVersion | unknown | spsDropped | spsSameDims | ppsDropped | ppsCached
  | orphan | overflow | emitted | noRes | held => cases hout; cases hchange

theorem effect_action_of_attemptedLen (h : Effect s i t) (hout : t.out = some o)
    (hlen : o.attemptedLen ≠ 0) : o.action = .psDropped ∨ o.action = .auOverflow := by
  cases h with
  | spsDropped | ppsDropped => cases hout; exact .inl rfl
  | overflow => cases hout; exact .inr rfl
  | rejShort | rejPt | rejVersion | unknown | spsNewDims | spsSameDims | ppsCached | orphan
  | emitted | noRes | held => cases hout; exact absurd rfl hlen

theorem exists_auWrite_of_begins (hb : begins i.op = true) : ∃ v, auWrite i s = some v := by
  cases i with
  | nalIdr | nalNonidr | fuaStart => exact ⟨_, rfl⟩
  | _ => cases hb

theorem kind_of_begins {p : Op} (hb : begins p = true) :
    p.kind ∈ [Kind.idr, .nonidr, .fuaStart] := by
  cases p with
  | nalIdr | nalNonidr | fuaStart => decide
  | _ => cases hb

theorem effect_action_of_begins (h : Effect s i t) (hout : t.out = some o)
    (hb : begins i.op = true) :
    o.action ∈ [Action.auStarted, .emitted, .auDroppedNoRes, .auOverflow] := by
  obtain ⟨v, hv⟩ := exists_auWrite_of_begins (s := s) hb
  obtain ⟨m, f, p, ⟨-, rfl⟩ | ⟨-, -, -, rfl⟩ | ⟨-, -, -, rfl⟩ | ⟨-, -, rfl⟩⟩ :=
    effect_of_auWrite h hv <;> cases hout
  · simp [acceptedOut]
  · simp [acceptedOut]
  · simp [acceptedOut]
  · simp [acceptedOut, hb]

theorem effect_begins_of_auAbandoned (h : Effect s i t) (hout : t.out = some o) :
    o.auAbandoned = true ↔ begins i.op = true ∧ s.reState = .accumulating := by
  obtain ⟨o', hout', habandoned⟩ := effect_auAbandoned h
  cases hout.symm.trans hout'
  rw [habandoned, Bool.and_eq_true, decide_eq_true_iff]

theorem effect_action_of_auOverflow {v : Bytes} (h : Effect s i t) (hout : t.out = some o)
    (hv : auWrite i s = some v) (hl : s.params.auMaxBytes < v.length) : o.action = .auOverflow := by
  obtain ⟨m, f, p, ⟨-, rfl⟩ | ⟨hfit, -⟩ | ⟨hfit, -⟩ | ⟨hfit, -⟩⟩ := effect_of_auWrite h hv
  · cases hout
    rfl
  all_goals exact absurd hl hfit.not_gt

end Effects

/-! ## The statements -/

theorem applyReset_applyReset (s : State) (rest : List Input) :
    applyReset { applyReset s with input := rest } = { applyReset s with input := rest } := rfl

/-- Settles O3: a second reset finds the state after reset; the tracker records, the counter counts,
and what an SPS or a PPS writes is not empty and not 0. -/
theorem resetIsIdempotentAndNothingElseResets :
    Obligations.ResetIsIdempotentAndNothingElseResets := by
  refine ⟨fun s rest hin => ⟨_, step_eq_applyReset hin, ?_⟩, fun i s => ?_⟩
  · rw [step_eq_applyReset (applyReset_input _), applyReset_applyReset]
  obtain ⟨t, hexec, heffect⟩ := exec_effect s i
  obtain ⟨hlast, hcount⟩ := tracker_kept_of_exec hexec
  exact ⟨t, hexec, hlast, hcount, effect_cache_kept heffect⟩

theorem seq_eq_succ_iff (q n : U16) : q = n + 1 ↔ q.toNat = (n.toNat + 1) % 65536 := by
  rw [← BitVec.toNat_inj, BitVec.toNat_add]
  rfl

/-- Settles O24: the tracker's rule (O23) read in numbers, where the words' addition is modulo their
size. -/
theorem sequenceArithmeticWrapsAt65536 : Obligations.SequenceArithmeticWrapsAt65536 := by
  intro i s q n hq hlast
  obtain ⟨t, o, hexec, hout, hrule⟩ := trackerRunsOnEveryAcceptedDatagram i s
  simp only [hq, hlast, Tracked] at hrule
  obtain ⟨-, ⟨hrecorded, hcount⟩, -, -, hanomaly⟩ := hrule
  refine ⟨t, o, hexec, hout, hrecorded, ?_, ?_⟩
  · rw [hanomaly, decide_eq_false_iff_not, not_not, seq_eq_succ_iff]
  · rw [hcount, hanomaly]
    by_cases horder : q = n + 1
    · simp [horder, Nat.mod_eq_of_lt s.anomalyCount.isLt]
    · rw [if_neg horder, decide_eq_true horder, BitVec.toNat_add]
      rfl

/-- Settles O38: the operation of an unknown payload is to report that it was ignored. -/
theorem unknownPayloadsAreIgnored : Obligations.UnknownPayloadsAreIgnored := fun m f p s =>
  ⟨_, exec_nalUnknown s m f p, tracked_seqTrack s f.seq, ⟨rfl, rfl⟩, ⟨rfl, rfl, rfl, rfl⟩,
    ⟨rfl, rfl, rfl⟩, rfl, rfl⟩

/-- Settles O40, by whether the instruction writes the buffer. -/
theorem reassemblerFollowsItsTransitionTable :
    Obligations.ReassemblerFollowsItsTransitionTable := by
  intro i s
  obtain ⟨t, hexec, heffect⟩ := exec_effect s i
  refine ⟨t, hexec, ?_⟩
  cases hw : auWrite i s with
  | none => exact effect_reState_of_no_write heffect hw
  | some v => exact effect_reState_of_write heffect hw

theorem kind_of_rejected {i : Instr} (h : i.op.hdrStatus ≠ .accepted) : i.op.kind = .none := by
  cases i with
  | rejShort | rejPt | rejVersion => rfl
  | _ => exact absurd rfl h

theorem hdrStatus_of_seqOf {i : Instr} {q : U16} (h : seqOf i = some q) :
    i.op.hdrStatus = .accepted := by
  cases i with
  | rejShort | rejPt | rejVersion => cases h
  | _ => rfl

/-- Settles O47: a rejection publishes the default record under its status, every other instruction
the record of an accepted datagram, and both end by adding the state they leave. -/
theorem recordShowsTheStateAfterTheStep : Obligations.RecordShowsTheStateAfterTheStep := by
  intro i s
  cases hq : seqOf i with
  | none =>
    have hst := hdrStatus_ne_accepted_of_seqOf hq
    exact ⟨_, _, exec_of_rejected hst s, publish_out _ _ _, rfl, rfl, rfl, rfl, rfl,
      (kind_of_rejected hst).symm,
      fun _ => ⟨rfl, rfl, rfl, rfl, rfl, rfl, rfl, rfl, rfl, rfl, rfl, rfl, rfl⟩⟩
  | some q =>
    obtain ⟨m, f, p, -, hexec⟩ := exec_of_seqOf hq
    exact ⟨_, _, hexec s, accept_out _ _ _ _ _ _, rfl, rfl, rfl, rfl,
      (hdrStatus_of_seqOf hq).symm, rfl, fun hst => absurd rfl hst⟩

/-- Settles O48: each event is traced to the effects that report it. -/
theorem eventsOfAStepCoOccurAsStated : Obligations.EventsOfAStepCoOccurAsStated := by
  intro i s
  obtain ⟨t, o, hexec, hout, hkind⟩ := exec_kind i s
  have heffect := effect_of_exec s hexec
  have habandoned := effect_begins_of_auAbandoned heffect hout
  refine ⟨t, o, hexec, hout, effect_action_of_seqAnomaly heffect hout,
    effect_action_of_resChange heffect hout, fun hab => ?_, fun v hb hre hv hl => ?_,
    effect_action_of_attemptedLen heffect hout⟩
  · obtain ⟨hb, -⟩ := habandoned.1 hab
    exact ⟨effect_action_of_begins heffect hout hb, hkind ▸ kind_of_begins hb⟩
  · exact ⟨habandoned.2 ⟨hb, hre⟩, effect_action_of_auOverflow heffect hout hv hl⟩

/-- Settles O49: the code functions evaluated at each name. -/
theorem codesAreThoseOfTheTables : Obligations.CodesAreThoseOfTheTables := by
  refine ⟨rfl, rfl, rfl, fun a => ?_, rfl⟩
  cases a <;> decide

end Sys2Proof.Machine

/-! What the operations do not read: the answers pinned for the SPS oracle
(42_parameter_sets.md R80), and what stood on the ports (44_frame_boundary.md R115). -/

namespace Sys2Proof.Machine

/-! ## Changes of a state that no operation but the SPS can tell -/

/-- `g` keeps what an operation other than an SPS reads of a state, and it makes no difference
whether an update is before or after it. -/
structure Unread (g : State → State) : Prop where
  elements : ∀ s, SameElements s (g s)
  bounds : ∀ s, (g s).params.auMaxBytes = s.params.auMaxBytes ∧
    (g s).params.ppsMaxBytes = s.params.ppsMaxBytes ∧ (g s).params.fourcc = s.params.fourcc
  seqTrack : ∀ s q, seqTrack (g s) q = g (seqTrack s q)
  auClear : ∀ s, auClear (g s) = g (auClear s)
  auReplace : ∀ s v, auReplace (g s) v = g (auReplace s v)
  ppsReplace : ∀ s p, ppsReplace (g s) p = g (ppsReplace s p)

namespace Unread

variable {g : State → State} (hg : Unread g) (s : State)
include hg

theorem reState : (g s).reState = s.reState := by
  obtain ⟨-, ⟨h, -⟩, -⟩ := hg.elements s
  exact h

theorem auBuf : (g s).auBuf = s.auBuf := by
  obtain ⟨-, ⟨-, h⟩, -⟩ := hg.elements s
  exact h

theorem abandons : abandons (g s) = abandons s := by
  unfold Machine.abandons
  rw [hg.reState]

theorem cachedPrefix : cachedPrefix (g s) = cachedPrefix s := by
  obtain ⟨-, -, hsps, hpps, -⟩ := hg.elements s
  simp only [Machine.cachedPrefix, hsps, hpps]

theorem auTooLong (n : Nat) : auTooLong (g s) n = auTooLong s n := by
  obtain ⟨hau, -⟩ := hg.bounds s
  simp only [Machine.auTooLong, hau]

theorem auOverflow (n : Nat) : auOverflow (g s) n = Prod.map g id (auOverflow s n) := by
  rw [Machine.auOverflow, hg.auClear]
  rfl

theorem complete (v : Bytes) : complete (g s) v = Prod.map g id (complete s v) := by
  obtain ⟨-, -, -, -, hwidth, hheight⟩ := hg.elements s
  obtain ⟨-, -, hfourcc⟩ := hg.bounds s
  have hdims : dimsKnown (g s) = dimsKnown s := by simp only [dimsKnown, hwidth, hheight]
  have hframe : frameOf (g s) v = frameOf s v := by simp only [frameOf, hwidth, hheight, hfourcc]
  rw [Machine.complete, hg.auClear, hdims, hframe]
  rfl

theorem handOver (v : Bytes) : handOver (g s) v = Prod.map g id (handOver s v) := by
  rw [Machine.handOver, hg.auTooLong, hg.auOverflow, hg.complete, ← apply_ite (Prod.map g id)]
  rfl

theorem hold (v : Bytes) (a : Action) : hold (g s) v a = Prod.map g id (hold s v a) := by
  have hreplace : (Machine.auReplace (g s) v, ({ action := a } : Report)) =
      Prod.map g id (Machine.auReplace s v, { action := a }) := by
    rw [hg.auReplace]
    rfl
  rw [Machine.hold, hg.auTooLong, hg.auOverflow, hreplace, ← apply_ite (Prod.map g id)]
  rfl

theorem beginning (res : State × Report) :
    beginning (g s) (Prod.map g id res) = Prod.map g id (beginning s res) := by
  simp [Machine.beginning, hg.abandons]

theorem opPps (p : Bytes) : opPps (g s) p = Prod.map g id (opPps s p) := by
  obtain ⟨-, hpps, -⟩ := hg.bounds s
  simp only [Machine.opPps, psOverflow, hpps, hg.ppsReplace]
  split_ifs <;> rfl

theorem opIdr (p : Bytes) : opIdr (g s) p = Prod.map g id (opIdr s p) := by
  rw [opIdr_eq, opIdr_eq, hg.cachedPrefix, hg.handOver, hg.beginning]

theorem opNonidr (p : Bytes) : opNonidr (g s) p = Prod.map g id (opNonidr s p) := by
  rw [opNonidr_eq, opNonidr_eq, hg.handOver, hg.beginning]

theorem opFuaStart (p : Bytes) : opFuaStart (g s) p = Prod.map g id (opFuaStart s p) := by
  simp only [Machine.opFuaStart, startPrefix, psPrefix_eq, hg.cachedPrefix, hg.hold, hg.beginning]

theorem opFuaMid (p : Bytes) : opFuaMid (g s) p = Prod.map g id (opFuaMid s p) := by
  cases hs : s.reState with
  | idle => rw [opFuaMid_idle s p hs, opFuaMid_idle (g s) p (hg.reState s ▸ hs)]; rfl
  | accumulating =>
    rw [opFuaMid_accumulating s p hs, opFuaMid_accumulating (g s) p (hg.reState s ▸ hs), hg.auBuf,
      hg.hold]

theorem opFuaEnd (p : Bytes) : opFuaEnd (g s) p = Prod.map g id (opFuaEnd s p) := by
  cases hs : s.reState with
  | idle => rw [opFuaEnd_idle s p hs, opFuaEnd_idle (g s) p (hg.reState s ▸ hs)]; rfl
  | accumulating =>
    rw [opFuaEnd_accumulating s p hs, opFuaEnd_accumulating (g s) p (hg.reState s ▸ hs), hg.auBuf,
      hg.handOver]

theorem operation (m : BitVec 1) (k : Kind) (p : Bytes)
    (hsps : k = .sps → opSps (g s) p = Prod.map g id (opSps s p)) :
    operation m k (g s) p = Prod.map g id (operation m k s p) := by
  cases k with
  | none | unknown => rfl
  | sps => exact hsps rfl
  | pps => exact hg.opPps s p
  | idr => exact hg.opIdr s p
  | nonidr => exact hg.opNonidr s p
  | fuaStart => exact hg.opFuaStart s p
  | fuaCont =>
    unfold Machine.operation
    split_ifs
    · exact hg.opFuaMid s p
    · exact hg.opFuaEnd s p

theorem acceptedOut (m : BitVec 1) (f : RtpFields) (p : Bytes) (k : Kind) (r : Report) :
    acceptedOut (g s) m f p k r = acceptedOut s m f p k r := by
  obtain ⟨⟨hlast, -⟩, -⟩ := hg.elements s
  simp only [Machine.acceptedOut, seqAnomaly, seqExpected, hlast]

/-- The step of an accepted datagram from the changed state: the operation's result changed
likewise, under the same record. -/
theorem accept (m : BitVec 1) (k : Kind) (f : RtpFields) (p : Bytes)
    (hsps : k = .sps → ∀ u, u.params = s.params → opSps (g u) p = Prod.map g id (opSps u p)) :
    let res := Machine.operation m k (Machine.seqTrack s f.seq) p
    Machine.accept k (Machine.operation m k) m f p (g s) =
      publish (g res.1) (Machine.acceptedOut s m f p k res.2) res.2.frame := by
  intro res
  have hres : Machine.operation m k (Machine.seqTrack (g s) f.seq) p = Prod.map g id res := by
    rw [hg.seqTrack]
    exact hg.operation _ m k p fun hk => hsps hk _ rfl
  rw [accept_of (g s) hres, hg.acceptedOut]
  rfl

end Unread

/-! ## The pinned answers of the oracle (42_parameter_sets.md R80) -/

/-- The state with other answers pinned for the oracle. -/
def setAnswers (a : List (Bytes × (Nat × Nat))) (s : State) : State :=
  { s with params := { s.params with spsAnswers := a } }

theorem unread_setAnswers (a : List (Bytes × (Nat × Nat))) : Unread (setAnswers a) where
  elements := sameElements_refl
  bounds _ := ⟨rfl, rfl, rfl⟩
  seqTrack _ _ := rfl
  auClear _ := rfl
  auReplace _ _ := rfl
  ppsReplace _ _ := rfl

theorem opSps_of_too_long {s : State} {p : Bytes} (h : s.params.spsMaxBytes < p.length) :
    opSps s p = psOverflow s p := if_pos h

theorem accept_setAnswers (a : List (Bytes × (Nat × Nat))) (m : BitVec 1) {k : Kind} (f : RtpFields)
    {p : Bytes} (s : State) (hlong : k = .sps → s.params.spsMaxBytes < p.length) :
    accept k (operation m k) m f p (setAnswers a s) =
      setAnswers a (accept k (operation m k) m f p s) := by
  refine (unread_setAnswers a).accept s m k f p fun hk u hu => ?_
  have hlong' : u.params.spsMaxBytes < p.length := hu ▸ hlong hk
  rw [opSps_of_too_long hlong', opSps_of_too_long (s := setAnswers a u) hlong']
  rfl

/-- Settles O29: a rejection consults nothing, an SPS beyond its bound is dropped unread, and no
other operation reads the pinned answers. -/
theorem oracleIsConsultedByAFittingSpsOnly : Obligations.OracleIsConsultedByAFittingSpsOnly := by
  intro i s a hlong
  cases hq : seqOf i with
  | none =>
    have hst := hdrStatus_ne_accepted_of_seqOf hq
    exact ⟨_, exec_of_rejected hst s, exec_of_rejected hst (setAnswers a s)⟩
  | some q =>
    by_cases hk : i.op.kind = .sps
    · cases i with
      | nalSps m f nri body =>
        exact ⟨_, rfl, congrArg Host.Outcome.next
          (accept_setAnswers a m (k := .sps) f s fun _ => hlong m f nri body rfl)⟩
      | _ => cases hk
    · obtain ⟨m, f, p, -, hexec⟩ := exec_of_seqOf hq
      exact ⟨_, hexec s, (hexec (setAnswers a s)).trans (congrArg Host.Outcome.next
        (accept_setAnswers a m f s fun h => absurd h hk))⟩

/-! ## The ports (44_frame_boundary.md R115) -/

/-- The state with another record and frame on the ports. -/
def setPorts (o : Option Out) (fr : Option Frame) (s : State) : State :=
  { s with out := o, frameOut := fr }

theorem unread_setPorts (o : Option Out) (fr : Option Frame) : Unread (setPorts o fr) where
  elements := sameElements_refl
  bounds _ := ⟨rfl, rfl, rfl⟩
  seqTrack _ _ := rfl
  auClear _ := rfl
  auReplace _ _ := rfl
  ppsReplace _ _ := rfl

theorem opSps_setPorts (o : Option Out) (fr : Option Frame) (s : State) (p : Bytes) :
    opSps (setPorts o fr s) p = Prod.map (setPorts o fr) id (opSps s p) := by
  unfold opSps updateDims
  simp only [apply_ite (Prod.map (setPorts o fr) id)]
  rfl

/-- Settles O46: no operation reads the ports, and the record and the frame of the step replace what
stood there. -/
theorem portsDoNotFeedBack : Obligations.PortsDoNotFeedBack := by
  intro i s o fr
  cases hq : seqOf i with
  | none =>
    have hst := hdrStatus_ne_accepted_of_seqOf hq
    rw [exec_of_rejected hst, exec_of_rejected hst]
    rfl
  | some q =>
    obtain ⟨m, f, p, -, hexec⟩ := exec_of_seqOf hq
    have haccept := (unread_setPorts o fr).accept s m i.op.kind f p
      fun _ u _ => opSps_setPorts o fr u p
    exact ((hexec (setPorts o fr s)).trans (congrArg Host.Outcome.next haccept)).trans
      (hexec s).symm

end Sys2Proof.Machine

/-! The reassembly law (43_reassembler.md R105): a start fragment begins an access unit, each piece
in between leaves it in progress with its own fragment bytes appended, and an end fragment completes
it. -/

namespace Sys2Proof.Machine

/-! ## Runs -/

theorem run_of_step {s t : State} (h : step s = .next t) (n : Nat) :
    Host.Core.run Sys2Proof.core (n + 1) s = Host.Core.run Sys2Proof.core n t := by
  have hcore : Sys2Proof.core.step s = Host.Outcome.next t := h
  simp only [Host.Core.run, hcore]

/-! ## An access unit in progress -/

/-- A block under parameters `p` in the middle of an access unit, of which it holds the bytes `buf`,
with the inputs `later` to come. -/
structure Gathering (p : Config.Params) (s : State) (buf : Bytes) (later : List Input) : Prop where
  params : s.params = p
  resetDone : s.resetDone = true
  reState : s.reState = .accumulating
  auBuf : s.auBuf = buf
  input : s.input = later

/-- The bytes a start fragment of a NAL unit with header `h` begins an access unit with, `b` being
its fragment bytes (43_reassembler.md R95, R99). -/
def startedUnit (s : State) (h : Byte) (b : Bytes) : Bytes :=
  (if typeBits h = 5 then cachedPrefix s else []) ++ [0x00, 0x00, 0x01] ++ h :: b

/-- A sender's start fragment leaves the block gathering. -/
theorem step_fus {s : State} {seq : U16} {m : BitVec 1} {h : Byte} {b : Bytes} {later : List Input}
    (hin : s.input = .datagram (fus seq m h b) :: later) (hr : s.resetDone = true)
    (hlen : b.length + 14 ≤ s.params.dgramMaxBytes)
    (hfit : (startedUnit s h b).length ≤ s.params.auMaxBytes) :
    ∃ t, step s = .next t ∧ Gathering s.params t (startedUnit s h b) later := by
  obtain ⟨t, hexec, -, -, ⟨hparams, hinput, hreset⟩, -, hheld⟩ :=
    startFragmentBeginsAnAccessUnit m ⟨0, 0, 0, seq, 0, 0⟩ (keepBits h) 0 0 (typeBits h) b
      { s with input := later }
  have hheader : (keepBits h ++ typeBits h : Byte) = h := nalHeader_keepBits_typeBits h
  rw [hheader] at hheld
  obtain ⟨hre, hbuf, -⟩ := (if_neg hfit.not_gt).mp hheld
  refine ⟨t, ?_, hparams, hreset.trans hr, hre, hbuf, hinput⟩
  rw [step_eq_exec_decode hin hr hlen, fus_eq_encode, decode_encode _ rfl]
  exact hexec

/-! ## The pieces in between (43_reassembler.md R105) -/

/-- Executing `i` in the middle of an access unit appends `frag` to it, where it fits, and leaves it
in progress. -/
def Appends (i : Instr) (frag : Bytes) : Prop :=
  ∀ s : State, s.reState = .accumulating → (s.auBuf ++ frag).length ≤ s.params.auMaxBytes →
    ∃ t, exec i s = .next t ∧ t.reState = .accumulating ∧ t.auBuf = s.auBuf ++ frag ∧
      SameSurround s t

theorem appends_fuaMid (f : RtpFields) (ind : BitVec 3) (e r : BitVec 1) (typ : BitVec 5)
    (frag : Bytes) : Appends (.fuaMid f ind e r typ frag) frag := by
  intro s hre hfit
  obtain ⟨t, hexec, -, -, hsurround, hcase⟩ := middleFragmentAppendsItsBytes f ind e r typ frag s
  simp only [hre, Held, if_neg hfit.not_gt] at hcase
  obtain ⟨-, hre', hbuf, -⟩ := hcase
  exact ⟨t, hexec, hre', hbuf, hsurround⟩

/-- An instruction that keeps the reassembler and the surround appends nothing. -/
theorem appends_nil {i : Instr}
    (h : ∀ s, ∃ t, exec i s = .next t ∧ SameReassembler s t ∧ SameSurround s t) : Appends i [] := by
  intro s hre _
  obtain ⟨t, hexec, ⟨hre', hbuf⟩, hsurround⟩ := h s
  exact ⟨t, hexec, hre'.trans hre, by rw [hbuf, List.append_nil], hsurround⟩

theorem appends_nalSps (m : BitVec 1) (f : RtpFields) (nri : BitVec 3) (body : Bytes) :
    Appends (.nalSps m f nri body) [] := appends_nil fun s => by
  obtain ⟨t, hexec, -, -, hre, hsurround, -⟩ :=
    spsReplacesTheCacheAndUpdatesTheDimensions m f nri body s
  exact ⟨t, hexec, hre, hsurround⟩

theorem appends_nalPps (m : BitVec 1) (f : RtpFields) (nri : BitVec 3) (body : Bytes) :
    Appends (.nalPps m f nri body) [] := appends_nil fun s => by
  obtain ⟨t, hexec, -, -, hre, hsurround, -⟩ := ppsReplacesTheCache m f nri body s
  exact ⟨t, hexec, hre, hsurround⟩

theorem appends_nalUnknown (m : BitVec 1) (f : RtpFields) (p : Bytes) :
    Appends (.nalUnknown m f p) [] := appends_nil fun s => by
  obtain ⟨t, hexec, -, hre, -, hsurround, -⟩ := unknownPayloadsAreIgnored m f p s
  exact ⟨t, hexec, hre, hsurround⟩

/-- The fragment bytes of the pieces are those that the first appends, then those of the others. -/
theorem fragmentsBetween_cons {d : Bytes} {ds : List Bytes} {b : Bytes}
    (h : fragmentsBetween (d :: ds) = some b) :
    ∃ frag b', Appends (decode d) frag ∧ fragmentsBetween ds = some b' ∧ b = frag ++ b' := by
  unfold fragmentsBetween at h
  cases hd : decode d with
  | fuaMid f ind e r typ frag =>
    simp only [hd] at h
    obtain ⟨b', hb', rfl⟩ := Option.map_eq_some_iff.1 h
    exact ⟨frag, b', appends_fuaMid f ind e r typ frag, hb', rfl⟩
  | nalSps m f nri body =>
    simp only [hd] at h
    exact ⟨[], b, appends_nalSps m f nri body, h, rfl⟩
  | nalPps m f nri body =>
    simp only [hd] at h
    exact ⟨[], b, appends_nalPps m f nri body, h, rfl⟩
  | nalUnknown m f p =>
    simp only [hd] at h
    exact ⟨[], b, appends_nalUnknown m f p, h, rfl⟩
  | rejShort | nalNonidr | nalIdr | fuaStart | fuaEnd | rejPt | rejVersion =>
    simp only [hd] at h
    cases h

theorem step_between {p : Config.Params} {s : State} {d frag buf : Bytes} {later : List Input}
    (hs : Gathering p s buf (.datagram d :: later)) (happ : Appends (decode d) frag)
    (hlen : d.length ≤ p.dgramMaxBytes) (hfit : (buf ++ frag).length ≤ p.auMaxBytes) :
    ∃ t, step s = .next t ∧ Gathering p t (buf ++ frag) later := by
  obtain ⟨rfl, hr, hre, rfl, hin⟩ := hs
  obtain ⟨t, hexec, hre', hbuf, hparams, hinput, hreset⟩ := happ { s with input := later } hre hfit
  exact ⟨t, (step_eq_exec_decode hin hr hlen).trans hexec, hparams, hreset.trans hr, hre', hbuf,
    hinput⟩

/-- The run over the pieces in between appends their fragment bytes in order. -/
theorem run_between {p : Config.Params} {later : List Input} (mids : List Bytes)
    (hlen : ∀ d ∈ mids, d.length ≤ p.dgramMaxBytes) {s : State} {buf b : Bytes}
    (hb : fragmentsBetween mids = some b)
    (hs : Gathering p s buf (mids.map Input.datagram ++ later))
    (hfit : (buf ++ b).length ≤ p.auMaxBytes) :
    ∃ t, Gathering p t (buf ++ b) later ∧ ∀ n,
      Host.Core.run Sys2Proof.core (mids.length + n) s = Host.Core.run Sys2Proof.core n t := by
  induction mids generalizing s buf b with
  | nil =>
    cases hb
    exact ⟨s, by rwa [List.append_nil], fun n => by rw [List.length_nil, Nat.zero_add]⟩
  | cons d ds ih =>
    obtain ⟨frag, b', happ, hb', rfl⟩ := fragmentsBetween_cons hb
    rw [← List.append_assoc] at hfit ⊢
    have hfirst : (buf ++ frag).length ≤ p.auMaxBytes :=
      le_trans (by simp) hfit
    obtain ⟨u, hstep, hu⟩ := step_between hs happ (hlen d (List.mem_cons_self ..)) hfirst
    obtain ⟨t, ht, hrun⟩ := ih (fun e he => hlen e (List.mem_cons_of_mem d he)) hb' hu hfit
    refine ⟨t, ht, fun n => ?_⟩
    rw [List.length_cons, Nat.add_right_comm, run_of_step hstep, hrun]

/-! ## The end -/

/-- A sender's end fragment completes the access unit, whose frame shows the dimensions after the
step, since the step keeps them. -/
theorem step_fue {p : Config.Params} {s : State} {seq : U16} {h : Byte} {buf b : Bytes}
    {later : List Input} (hs : Gathering p s buf (.datagram (fue seq h b) :: later))
    (hlen : b.length + 14 ≤ p.dgramMaxBytes) (hfit : (buf ++ b).length ≤ p.auMaxBytes) :
    ∃ t, step s = .next t ∧ t.reState = .idle ∧ t.auBuf = [] ∧ t.input = later ∧
      t.frameOut =
        if t.width = 0 ∨ t.height = 0 then none
        else some ⟨t.width, t.height, p.fourcc, (buf ++ b).length, buf ++ b⟩ := by
  obtain ⟨rfl, hr, hre, rfl, hin⟩ := hs
  obtain ⟨t, hexec, -, ⟨-, -, hwidth, hheight⟩, ⟨-, hinput, -⟩, hcase⟩ :=
    endFragmentCompletesTheAccessUnit ⟨0, 0, 0, seq, 0, 0⟩ (keepBits h) 1 0 (typeBits h) b
      { s with input := later }
  simp only [hre, HandedOver, if_neg hfit.not_gt] at hcase
  obtain ⟨hre', hbuf, hframe⟩ := hcase
  refine ⟨t, ?_, hre', hbuf, hinput, ?_⟩
  · rw [step_eq_exec_decode hin hr hlen, fue_eq_encode, decode_encode _ rfl]
    exact hexec
  · rw [hwidth, hheight]
    split_ifs at hframe ⊢ <;> exact hframe.1

/-- Settles O41: the start fragment's step, the run over the pieces in between, the end fragment's
step. -/
theorem fragmentsReassembleTheNalUnit : Obligations.FragmentsReassembleTheNalUnit := by
  intro s h m seq seq' b1 b bk mids rest hr hin hmids hlen1 hlen hlenk v hfit
  have hv : v = startedUnit s h b1 ++ b ++ bk := by
    simp only [v, startedUnit, List.append_assoc, List.cons_append]
    rfl
  have hfit2 : (startedUnit s h b1 ++ b).length ≤ s.params.auMaxBytes :=
    le_trans (by simp [hv]) hfit
  have hfit1 : (startedUnit s h b1).length ≤ s.params.auMaxBytes :=
    le_trans (by simp) hfit2
  obtain ⟨t₁, hstart, h₁⟩ := step_fus hin hr hlen1 hfit1
  obtain ⟨t₂, h₂, hrun⟩ := run_between mids hlen hmids h₁ hfit2
  obtain ⟨t, hend, hre, hbuf, hinput, hframe⟩ := step_fue h₂ hlenk (hv ▸ hfit)
  refine ⟨t, ?_, hre, hbuf, hinput, by rw [hframe, hv]⟩
  rw [run_of_step hstart, hrun, run_of_step hend]
  rfl

end Sys2Proof.Machine
